-- ==== Sys2Proof/Word.lean ====
section
/-! DEFINITION. The two widths of data the block moves: the byte of every port access, and the 16-bit timer latch
(spec/20_memory.md R74, R75, R77; spec/00_scope.md R8). -/

namespace Sys2Proof

/-- `u8`: the data of every bus access, and of every register but a latch (R74, R77). -/
abbrev Byte := BitVec 8

/-- `u16`: a timer channel's latch, the only multi-byte quantity (R75). -/
abbrev LatchWord := BitVec 16

end Sys2Proof
end

