-- ==== Sys2Proof/Config.lean ====
section
/-! DEFINITION. The implementation parameters of spec/00_scope.md R7, which a model takes "as arguments": State carries
one `Params` record that no step changes, so a statement about every state is a statement about every choice of the
OPEN parameters. Beside them: the settled sizes, and the free values (opaque, no body). -/

namespace Sys2Proof

/-- `Q_CAP`, the ByteQueue's capacity in bytes (R7, R38). -/
abbrev queueCapacity : Nat := 64

/-- `HOST_PORTS`, the size of the host window (R7, R72). -/
abbrev hostPorts : Nat := 16

/-- Which sub-address parity of internal group 1 is the data port: `Q_DATA_PARITY` (R7, D6). -/
inductive Parity where
  | even | odd
  deriving DecidableEq, Repr, Inhabited

/-- Meaning of internal group 3: `G3_MAP` (R7, D4, 90_conflicts.md C5). -/
inductive G3Map where
  | unmapped | timerPorts
  deriving DecidableEq, Repr, Inhabited

/-- Effect of a write to the queue data port: `Q_DATA_WRITE` (R7, D8). -/
inductive QDataWrite where
  | ignore | enqueue
  deriving DecidableEq, Repr, Inhabited

/-- `HS_POS`: the bit of the handshake status byte at which each of its seven fields sits (R7, R110, D11). -/
structure HsPos where
  extra : Fin 8
  h2dReady : Fin 8
  h2dRxInt : Fin 8
  d2hNReady : Fin 8
  d2hTxInt : Fin 8
  h2dRxEn : Fin 8
  d2hTxEn : Fin 8
  deriving DecidableEq, Repr

/-- The seven positions in the order of R110. -/
def HsPos.toList (p : HsPos) : List (Fin 8) :=
  [p.extra, p.h2dReady, p.h2dRxInt, p.d2hNReady, p.d2hTxInt, p.h2dRxEn, p.d2hTxEn]

/-- `Q_STAT_POS`: the bit of the queue status byte at which each of its three fields sits (R7, R116, D9). -/
structure QStatPos where
  notEmpty : Fin 8
  notFull : Fin 8
  qIrq : Fin 8
  deriving DecidableEq, Repr

/-- The three positions in the order of R116. -/
def QStatPos.toList (p : QStatPos) : List (Fin 8) := [p.notEmpty, p.notFull, p.qIrq]

/-- The parameters of R7 that are not settled to one value. -/
structure Params where
  /-- `INT_PORT_BITS`, the width of an internal port number, at least 6 (D3). -/
  intPortBits : Nat
  /-- `HOST_BASE` (D25). -/
  hostBase : Nat
  /-- `HOST_IRQ`, the number of the host line the block drives (D25). -/
  hostIrq : Nat
  /-- `CLK_A` in Hz, a positive rational (D24). -/
  clkA : Rat
  /-- `CLK_B` in Hz, a positive rational (D24). -/
  clkB : Rat
  g3Map : G3Map
  qDataParity : Parity
  qDataWrite : QDataWrite
  qStatPos : QStatPos
  /-- `Q_STAT_FREE`: bit k is what bit k of the queue status byte reads where no field sits (D9; log entry 4). -/
  qStatFree : Byte
  hsPos : HsPos
  /-- `HS_FREE`, the eighth handshake status bit (D11). -/
  hsFree : Bool
  /-- `CW_VAL_BIT` (D13). -/
  cwValBit : Fin 8
  /-- `CW_SEL_LSB`: the three select bits lie inside the byte, so it is at most 5 (D13). -/
  cwSelLsb : Fin 6
  /-- `FW_PRESENT`: whether a firmware image was loaded for this session (R380, R404, D28). -/
  fwPresent : Bool
  deriving DecidableEq, Repr

/-- What R7 and R110 require of the parameters; that the queue status positions differ is DEDUCED (log entry 4). -/
structure Params.Wf (p : Params) : Prop where
  portBits : 6 ≤ p.intPortBits
  clkA_pos : 0 < p.clkA
  clkB_pos : 0 < p.clkB
  hsPos_nodup : p.hsPos.toList.Nodup
  qStatPos_nodup : p.qStatPos.toList.Nodup

/-- `draw()` (R9): any byte. The n-th draw of a run is this constant at n; it has no body, so nothing can be proved of
its value (log entry 1). -/
opaque Config.freeByte : Nat → Byte

/-- Stands for the OPEN `G3_MAP`, which has no reference value, in the parameters of the reset state (log entry 2). -/
opaque Config.g3Map : G3Map

/-- Stands for the OPEN `HOST_IRQ` in the parameters of the reset state (log entry 2). -/
opaque Config.hostIrq : Nat

/-- `CLK_A` of the reset state's parameters is `(clkANum + 1) / (clkADen + 1)`, any positive rational (log entry 2). -/
opaque Config.clkANum : Nat

/-- See `Config.clkANum`. -/
opaque Config.clkADen : Nat

/-- `CLK_B` of the reset state's parameters is `(clkBNum + 1) / (clkBDen + 1)`, any positive rational (log entry 2). -/
opaque Config.clkBNum : Nat

/-- See `Config.clkBNum`. -/
opaque Config.clkBDen : Nat

/-- The parameters of the reset state: the reference values of R7 where it names one, free constants for `G3_MAP`,
`CLK_A`, `CLK_B` and `HOST_IRQ`, and two values of the model's own, `HOST_BASE` = 0 and `FW_PRESENT` = true
(DESIGN CHOICE, log entry 2). -/
def Params.reference : Params where
  intPortBits := 8
  hostBase := 0
  hostIrq := Config.hostIrq
  clkA := ((Config.clkANum : Rat) + 1) / ((Config.clkADen : Rat) + 1)
  clkB := ((Config.clkBNum : Rat) + 1) / ((Config.clkBDen : Rat) + 1)
  g3Map := Config.g3Map
  qDataParity := .even
  qDataWrite := .ignore
  qStatPos := { notEmpty := 0, notFull := 1, qIrq := 2 }
  qStatFree := 0#8
  hsPos := { extra := 7, h2dReady := 6, h2dRxInt := 5, d2hNReady := 4, d2hTxInt := 3, h2dRxEn := 2, d2hTxEn := 1 }
  hsFree := false
  cwValBit := 0
  cwSelLsb := 1
  fwPresent := true

end Sys2Proof
end

