-- ==== Sys2Proof/Syntax.lean ====
section
/-! DEFINITION. The syntax: one constructor for every mnemonic of spec/opcode_table.json, in the table's order. The
block executes no program; its "instructions" are the bus transactions and external events of spec/00_scope.md R2.
An operand named `sss`, `ss`, `p` or `sub` holds the sub-address bits the row leaves free (they select nothing but the
timer port, spec/30_encoding.md R118); `v` is the data byte of a write. -/

namespace Sys2Proof

/-- A decoded transaction or event. Rows of the table that share a mnemonic (`INT_HS_RD_UNMAPPED` three rows,
`INT_HS_WR_UNMAPPED` four) are one constructor, whose operand is the whole sub-address. -/
inductive Instr where
  /-- Format I, group 0 (R263-R266). -/
  | intChipRdEven (sss : BitVec 3)
  | intChipStatusRd (sss : BitVec 3)
  | intChipAddrWr (sss : BitVec 3) (v : Byte)
  | intChipDataWr (sss : BitVec 3) (v : Byte)
  /-- Format I, group 1 (R267-R270). -/
  | intQDataRd (sss : BitVec 3)
  | intQStatusRd (sss : BitVec 3)
  | intQDataWr (sss : BitVec 3) (v : Byte)
  | intQCmdWr (sss : BitVec 3) (v : Byte)
  /-- Format I, group 2 (R271-R277). -/
  | intHsPeekD2h
  | intHsGetH2d
  | intHsStatusRd
  | intHsRdUnmapped (sub : BitVec 4)
  | intHsPutD2h (v : Byte)
  | intHsWrUnmapped (sub : BitVec 4) (v : Byte)
  | intHsCtrlWr (v : Byte)
  /-- Format I, group 3 (R278, R279). -/
  | intG3Rd (sub : BitVec 4)
  | intG3Wr (sub : BitVec 4) (v : Byte)
  /-- Format H reads (R313-R319). -/
  | hGetD2h
  | hPeekH2d
  | hStatusRd
  | hRd3
  | hTimerRd (p : BitVec 2)
  | hRdTcrSpace (ss : BitVec 2)
  | hTsrRd (ss : BitVec 2)
  /-- Format H writes (R320-R325). `hWr02 b` is sub-address 0 (b = 0) or 2 (b = 1). -/
  | hWr02 (b : BitVec 1) (v : Byte)
  | hPutH2d (v : Byte)
  | hCtrlWr (v : Byte)
  | hTimerWr (p : BitVec 2) (v : Byte)
  | hTcrWr (ss : BitVec 2) (v : Byte)
  | hWrTsrSpace (ss : BitVec 2) (v : Byte)
  /-- Format E (R102). -/
  | evReset
  | evEnqueue (bytes : List Byte)
  | evFireA
  | evFireB
  | evChipLevel (lvl : Bool)
  deriving DecidableEq, Repr

end Sys2Proof
end

