-- ==== Sys2Proof/WellFormed.lean ====
section
/-! DEFINITION. Which terms of `Instr` stand for a transaction. Only the two unmapped rows of internal group 2 have an
operand with values that belong to another row (spec/30_encoding.md R104); every other operand may take every value. -/

namespace Sys2Proof

/-- Sub-addresses 0, 1 and 2 of internal group 2 are mapped reads, 0 and 3 are mapped writes (R104, R274, R277). -/
def Instr.wf : Instr → Bool
  | .intHsRdUnmapped sub => decide (3 ≤ sub.toNat)
  | .intHsWrUnmapped sub _ => decide (sub ≠ 0#4 ∧ sub ≠ 3#4)
  | .intChipRdEven _ | .intChipStatusRd _ | .intChipAddrWr _ _ | .intChipDataWr _ _
  | .intQDataRd _ | .intQStatusRd _ | .intQDataWr _ _ | .intQCmdWr _ _
  | .intHsPeekD2h | .intHsGetH2d | .intHsStatusRd | .intHsPutD2h _ | .intHsCtrlWr _
  | .intG3Rd _ | .intG3Wr _ _
  | .hGetD2h | .hPeekH2d | .hStatusRd | .hRd3 | .hTimerRd _ | .hRdTcrSpace _ | .hTsrRd _
  | .hWr02 _ _ | .hPutH2d _ | .hCtrlWr _ | .hTimerWr _ _ | .hTcrWr _ _ | .hWrTsrSpace _ _
  | .evReset | .evEnqueue _ | .evFireA | .evFireB | .evChipLevel _ => true

end Sys2Proof
end

