-- ==== Sys2Proof/Decode.lean ====
section
/-! DEFINITION. The decoder of the two decode tables and the event codes (spec/30_encoding.md R100-R106), total on any
bytes, and after it the encoder. A transaction is a packet: the interface it arrives on tells its format (R121), its
first byte holds the code (7, 5 or 4 bits, the bits above them zero), and the operand bytes follow. -/

namespace Sys2Proof

/-- The three formats: internal bus (I, R100), host bus (H, R101), external event (E, R102). -/
inductive Format where
  | internal | host | event
  deriving DecidableEq, Repr

/-- Why a packet is no transaction of the block. -/
inductive DecodeError where
  /-- The packet has no code byte. -/
  | emptyPacket
  /-- The code byte has a bit set above the format's code width (R100-R102). -/
  | codeTooWide (c : Byte)
  /-- A read carries data, a write does not carry exactly one byte, or an event has the wrong operands (R118, R102). -/
  | badOperands (c : Byte)
  /-- Event codes 0101-1111 are no event (R102, R119). -/
  | noSuchEvent (c : Byte)
  deriving DecidableEq, Repr

/-- The value of `S[0]` at the group 1 data port (R104). -/
def Parity.bit : Parity → BitVec 1
  | .even => 0#1
  | .odd => 1#1

/-- The value of `S[0]` at the group 1 command and status port, "the other parity" (R104). -/
def Parity.otherBit (par : Parity) : BitVec 1 := ~~~par.bit

/-- The read column of the internal decode table (R103, R104). -/
def internalRead (par : Parity) (g : BitVec 2) (sub : BitVec 4) : Instr :=
  let sss := sub.extractLsb' 1 3
  let par0 := sub.extractLsb' 0 1
  if g = 0#2 then
    if par0 = 0#1 then .intChipRdEven sss else .intChipStatusRd sss
  else if g = 1#2 then
    if par0 = par.bit then .intQDataRd sss else .intQStatusRd sss
  else if g = 2#2 then
    if sub = 0#4 then .intHsPeekD2h
    else if sub = 1#4 then .intHsGetH2d
    else if sub = 2#4 then .intHsStatusRd
    else .intHsRdUnmapped sub
  else .intG3Rd sub

/-- The write column of the internal decode table (R103, R104). -/
def internalWrite (par : Parity) (g : BitVec 2) (sub : BitVec 4) (v : Byte) : Instr :=
  let sss := sub.extractLsb' 1 3
  let par0 := sub.extractLsb' 0 1
  if g = 0#2 then
    if par0 = 0#1 then .intChipAddrWr sss v else .intChipDataWr sss v
  else if g = 1#2 then
    if par0 = par.bit then .intQDataWr sss v else .intQCmdWr sss v
  else if g = 2#2 then
    if sub = 0#4 then .intHsPutD2h v
    else if sub = 3#4 then .intHsCtrlWr v
    else .intHsWrUnmapped sub v
  else .intG3Wr sub v

/-- The read column of the host decode table (R106). -/
def hostRead (sub : BitVec 4) : Instr :=
  let ss := sub.extractLsb' 0 2
  if sub = 0x0#4 then .hGetD2h
  else if sub = 0x1#4 then .hPeekH2d
  else if sub = 0x2#4 then .hStatusRd
  else if sub = 0x3#4 then .hRd3
  else if sub.extractLsb' 2 2 = 1#2 then .hTimerRd ss
  else if sub.extractLsb' 2 2 = 2#2 then .hRdTcrSpace ss
  else .hTsrRd ss

/-- The write column of the host decode table (R106). -/
def hostWrite (sub : BitVec 4) (v : Byte) : Instr :=
  let ss := sub.extractLsb' 0 2
  if sub = 0x0#4 then .hWr02 0#1 v
  else if sub = 0x1#4 then .hPutH2d v
  else if sub = 0x2#4 then .hWr02 1#1 v
  else if sub = 0x3#4 then .hCtrlWr v
  else if sub.extractLsb' 2 2 = 1#2 then .hTimerWr ss v
  else if sub.extractLsb' 2 2 = 2#2 then .hTcrWr ss v
  else .hWrTsrSpace ss v

/-- Format I: `W G G S S S S` (R100). -/
def decodeInternal (par : Parity) (c : Byte) (operands : List Byte) : Except DecodeError Instr :=
  if c.getLsbD 7 then .error (.codeTooWide c)
  else if c.getLsbD 6 then
    match operands with
    | [v] => .ok (internalWrite par (c.extractLsb' 4 2) (c.extractLsb' 0 4) v)
    | _ => .error (.badOperands c)
  else
    match operands with
    | [] => .ok (internalRead par (c.extractLsb' 4 2) (c.extractLsb' 0 4))
    | _ => .error (.badOperands c)

/-- Format H: `W S S S S` (R101). -/
def decodeHost (c : Byte) (operands : List Byte) : Except DecodeError Instr :=
  if c.extractLsb' 5 3 ≠ 0#3 then .error (.codeTooWide c)
  else if c.getLsbD 4 then
    match operands with
    | [v] => .ok (hostWrite (c.extractLsb' 0 4) v)
    | _ => .error (.badOperands c)
  else
    match operands with
    | [] => .ok (hostRead (c.extractLsb' 0 4))
    | _ => .error (.badOperands c)

/-- An event with no operand takes none (R102). -/
def decodeBareEvent (i : Instr) (c : Byte) : List Byte → Except DecodeError Instr
  | [] => .ok i
  | _ => .error (.badOperands c)

/-- Format E: the code table of R102. `EV_CHIP_LEVEL`'s bit travels as a byte 0 or 1 (log entry 6). -/
def decodeEvent (c : Byte) (operands : List Byte) : Except DecodeError Instr :=
  if c.extractLsb' 4 4 ≠ 0#4 then .error (.codeTooWide c)
  else if c = 0#8 then decodeBareEvent .evReset c operands
  else if c = 1#8 then .ok (.evEnqueue operands)
  else if c = 2#8 then decodeBareEvent .evFireA c operands
  else if c = 3#8 then decodeBareEvent .evFireB c operands
  else if c = 4#8 then
    match operands with
    | [l] => if l = 0#8 then .ok (.evChipLevel false)
             else if l = 1#8 then .ok (.evChipLevel true)
             else .error (.badOperands c)
    | _ => .error (.badOperands c)
  else .error (.noSuchEvent c)

/-- The decoder: the format the packet arrived in, its bytes, and the parity parameter of R104. -/
def decode (par : Parity) (f : Format) : List Byte → Except DecodeError Instr
  | [] => .error .emptyPacket
  | c :: operands =>
    match f with
    | .internal => decodeInternal par c operands
    | .host => decodeHost c operands
    | .event => decodeEvent c operands

/-- The interface a transaction arrives on (R121). -/
def Instr.format : Instr → Format
  | .intChipRdEven _ | .intChipStatusRd _ | .intChipAddrWr _ _ | .intChipDataWr _ _
  | .intQDataRd _ | .intQStatusRd _ | .intQDataWr _ _ | .intQCmdWr _ _
  | .intHsPeekD2h | .intHsGetH2d | .intHsStatusRd | .intHsRdUnmapped _
  | .intHsPutD2h _ | .intHsWrUnmapped _ _ | .intHsCtrlWr _ | .intG3Rd _ | .intG3Wr _ _ => .internal
  | .hGetD2h | .hPeekH2d | .hStatusRd | .hRd3 | .hTimerRd _ | .hRdTcrSpace _ | .hTsrRd _
  | .hWr02 _ _ | .hPutH2d _ | .hCtrlWr _ | .hTimerWr _ _ | .hTcrWr _ _ | .hWrTsrSpace _ _ => .host
  | .evReset | .evEnqueue _ | .evFireA | .evFireB | .evChipLevel _ => .event

/-- Format I code byte: `0 W G G S S S S` (R100). -/
def internalCode (w : BitVec 1) (g : BitVec 2) (sub : BitVec 4) : Byte := 0#1 ++ w ++ g ++ sub

/-- Format H code byte: `0 0 0 W S S S S` (R101). -/
def hostCode (w : BitVec 1) (sub : BitVec 4) : Byte := 0#3 ++ w ++ sub

/-- The code byte of an instruction, row by row from the patterns of opcode_table.json; under `Q_DATA_PARITY = Odd`
the `S[0]` of the group 1 rows is swapped. -/
def Instr.code (par : Parity) : Instr → Byte
  | .intChipRdEven sss => internalCode 0#1 0#2 (sss ++ 0#1)
  | .intChipStatusRd sss => internalCode 0#1 0#2 (sss ++ 1#1)
  | .intChipAddrWr sss _ => internalCode 1#1 0#2 (sss ++ 0#1)
  | .intChipDataWr sss _ => internalCode 1#1 0#2 (sss ++ 1#1)
  | .intQDataRd sss => internalCode 0#1 1#2 (sss ++ par.bit)
  | .intQStatusRd sss => internalCode 0#1 1#2 (sss ++ par.otherBit)
  | .intQDataWr sss _ => internalCode 1#1 1#2 (sss ++ par.bit)
  | .intQCmdWr sss _ => internalCode 1#1 1#2 (sss ++ par.otherBit)
  | .intHsPeekD2h => internalCode 0#1 2#2 0#4
  | .intHsGetH2d => internalCode 0#1 2#2 1#4
  | .intHsStatusRd => internalCode 0#1 2#2 2#4
  | .intHsRdUnmapped sub => internalCode 0#1 2#2 sub
  | .intHsPutD2h _ => internalCode 1#1 2#2 0#4
  | .intHsWrUnmapped sub _ => internalCode 1#1 2#2 sub
  | .intHsCtrlWr _ => internalCode 1#1 2#2 3#4
  | .intG3Rd sub => internalCode 0#1 3#2 sub
  | .intG3Wr sub _ => internalCode 1#1 3#2 sub
  | .hGetD2h => hostCode 0#1 0x0#4
  | .hPeekH2d => hostCode 0#1 0x1#4
  | .hStatusRd => hostCode 0#1 0x2#4
  | .hRd3 => hostCode 0#1 0x3#4
  | .hTimerRd p => hostCode 0#1 (1#2 ++ p)
  | .hRdTcrSpace ss => hostCode 0#1 (2#2 ++ ss)
  | .hTsrRd ss => hostCode 0#1 (3#2 ++ ss)
  | .hWr02 b _ => hostCode 1#1 (0#2 ++ b ++ 0#1)
  | .hPutH2d _ => hostCode 1#1 0x1#4
  | .hCtrlWr _ => hostCode 1#1 0x3#4
  | .hTimerWr p _ => hostCode 1#1 (1#2 ++ p)
  | .hTcrWr ss _ => hostCode 1#1 (2#2 ++ ss)
  | .hWrTsrSpace ss _ => hostCode 1#1 (3#2 ++ ss)
  | .evReset => 0#8
  | .evEnqueue _ => 1#8
  | .evFireA => 2#8
  | .evFireB => 3#8
  | .evChipLevel _ => 4#8

/-- The operand bytes that follow the code (R100-R102, R118). -/
def Instr.operands : Instr → List Byte
  | .intChipAddrWr _ v | .intChipDataWr _ v | .intQDataWr _ v | .intQCmdWr _ v
  | .intHsPutD2h v | .intHsWrUnmapped _ v | .intHsCtrlWr v | .intG3Wr _ v
  | .hWr02 _ v | .hPutH2d v | .hCtrlWr v | .hTimerWr _ v | .hTcrWr _ v | .hWrTsrSpace _ v => [v]
  | .intChipRdEven _ | .intChipStatusRd _ | .intQDataRd _ | .intQStatusRd _
  | .intHsPeekD2h | .intHsGetH2d | .intHsStatusRd | .intHsRdUnmapped _ | .intG3Rd _
  | .hGetD2h | .hPeekH2d | .hStatusRd | .hRd3 | .hTimerRd _ | .hRdTcrSpace _ | .hTsrRd _
  | .evReset | .evFireA | .evFireB => []
  | .evEnqueue bytes => bytes
  | .evChipLevel lvl => [if lvl then 1#8 else 0#8]

/-- The encoder: the packet of an instruction. -/
def encode (par : Parity) (i : Instr) : List Byte := i.code par :: i.operands

/-! ## Words numbered as spec/opcode_table.json numbers them -/

/-- The format of a table word. A row's own code width (7, 5, 4) names its format. A width in whole bytes does not say
which bus the word arrived on, so the narrowest format that assigns the code is taken (DESIGN CHOICE, log entry 7). -/
def tableFormat (nbits w : Nat) : Option Format :=
  if nbits = 7 then some .internal
  else if nbits = 5 then some .host
  else if nbits = 4 then some .event
  else if w % 256 < 0x05 then some .event
  else if w % 256 < 0x20 then some .host
  else if w % 256 < 0x80 then some .internal
  else none

/-- The code byte of a table word: its lowest byte. -/
def tableCode (w : Nat) : Byte := BitVec.ofNat 8 w

/-- Whether a code is followed by one operand byte: a write of either bus, or `EV_CHIP_LEVEL`. -/
def takesByte (f : Format) (c : Byte) : Bool :=
  match f with
  | .internal => c.getLsbD 6
  | .host => c.getLsbD 4
  | .event => c == 4#8

/-- The bytes of a table word above the code: one where the format calls for one (zero where `nbits` ends before it),
and for `EV_ENQUEUE` as many as `nbits` covers. -/
def tableOperands (f : Format) (nbits w : Nat) : List Byte :=
  if takesByte f (tableCode w) then [if nbits ≤ 8 then 0#8 else BitVec.ofNat 8 (w / 256)]
  else if f = .event ∧ tableCode w = 1#8 then
    (List.range ((nbits - 1) / 8)).map fun k => BitVec.ofNat 8 (w / 256 ^ (k + 1))
  else []

/-- The instruction the decoder reads from a table word, under the parity the table is written for (its rows'
"reference Q_DATA_PARITY = Even"). -/
def decodeTableWord (nbits w : Nat) : Option Instr :=
  match tableFormat nbits w with
  | none => none
  | some f =>
    match decode .even f (tableCode w :: tableOperands f nbits w) with
    | .ok i => some i
    | .error _ => none

end Sys2Proof
end

