-- ==== Sys2Proof/Machine/State.lean ====
section
/-! DEFINITION. The architectural state of spec/10_state.md (R32-R46, summary in its section 9), beside it the
parameters (R7), the transactions the agents have issued and the block has not yet taken (R82, R376), and the bytes,
calls and edges it has put out on its interfaces (R6, R417); and its reset value (R400, R401). -/

namespace Sys2Proof.Machine

/-- A handshake channel, a one-byte mailbox (R32). -/
structure Channel where
  value : Byte
  ready : Bool
  rxEn : Bool
  txEn : Bool
  deriving DecidableEq, Repr

/-- The two channels: Host→Device and Device→Host (R32). -/
inductive Chan where
  | h2d | d2h
  deriving DecidableEq, Repr

/-- `AccessMode`; the 2-bit codes are 0, 1, 2, 3 in this order (R45). -/
inductive AccessMode where
  | latch | lowOnly | highOnly | lowThenHigh
  deriving DecidableEq, Repr

/-- A timer channel (R44): `opMode` is bits 3:0 of its last control word, `loadState` counts latch bytes, 0 to 5. -/
structure TimerChannel where
  access : AccessMode
  opMode : BitVec 4
  latch : LatchWord
  loadState : Fin 6
  deriving DecidableEq, Repr

/-- The three timer channels (R44). -/
inductive ChannelId where
  | a | b1 | b2
  deriving DecidableEq, Repr

/-- The two timers: A, and B, the cascade of B1 and B2 (R44, 90_conflicts.md C3). -/
inductive TimerId where
  | a | b
  deriving DecidableEq, Repr

/-- `pendingTimerBits` (R41). -/
structure PendingBits where
  a : Bool
  b : Bool
  deriving DecidableEq, Repr

/-- A call into the synthesis chip (R262). -/
inductive ChipCall where
  | status
  | writeAddr (v : Byte)
  | writeData (v : Byte)
  deriving DecidableEq, Repr

/-- A call into the scheduler (R6, R46); a period is in milliseconds. -/
inductive SchedCall where
  | schedule (t : TimerId) (period : Rat)
  | cancel (t : TimerId)
  deriving DecidableEq, Repr

/-- A diagnostic of `log(msg)` (R375, R371). Nothing reads it. An internal port is recorded by its decoded bits 5:0. -/
inductive Diag where
  | unmappedInternalRead (port : BitVec 6)
  | unmappedInternalWrite (port : BitVec 6) (v : Byte)
  | unmappedHostRead (sub : BitVec 4)
  | unmappedHostWrite (sub : BitVec 4) (v : Byte)
  | queueDataWrite (v : Byte)
  | unselectedControlBit (v : Byte)
  | unsupportedTimerMode (v : Byte)
  | noTimerChannel (v : Byte)
  | missingFirmware
  deriving DecidableEq, Repr

/-- What the block has put out on each interface since construction, oldest first (R6, R417; log entry 8). The level
of the embedded-processor interrupt is no entry here: it is a function of the state (R361). -/
structure Outputs where
  /-- Bytes returned to the embedded processor. -/
  intReads : List Byte
  /-- Bytes returned to the host. -/
  hostReads : List Byte
  /-- The `HostIrq` edges emitted, `true` a raise (R363). -/
  irqEdges : List Bool
  chipCalls : List ChipCall
  schedCalls : List SchedCall
  diags : List Diag
  deriving DecidableEq, Repr

/-- No output yet. -/
def Outputs.empty : Outputs := ⟨[], [], [], [], [], []⟩

/-- One item of the total order of R82, as its agent issues it on its interface (R6, R376). -/
inductive Cycle where
  /-- `in.i port` (R260). -/
  | intRead (port : Nat)
  /-- `out.i port, v` (R260). -/
  | intWrite (port : Nat) (v : Byte)
  /-- The embedded processor's interrupt-acknowledge sequence (R361, R366). -/
  | intAck
  /-- A host I/O read at an address of the host I/O space (R72, R310). -/
  | hostRead (addr : Nat)
  /-- A host I/O write (R72, R310). -/
  | hostWrite (addr : Nat) (v : Byte)
  /-- An external event: code and operand bytes (R102). -/
  | event (code : BitVec 4) (operands : List Byte)
  /-- Teardown of the device (R403). -/
  | teardown
  deriving DecidableEq, Repr

/-- The lifecycle of the one device of a session (R400, R403): construction is the first event and occurs once, teardown
ends the session. -/
inductive Phase where
  | unbuilt | running | tornDown
  deriving DecidableEq, Repr

/-- The state of the block and of the model around it. -/
structure State where
  /-- R32. -/
  h2d : Channel
  /-- R32. -/
  d2h : Channel
  /-- The extra-flag (R36). -/
  extra : Bool
  /-- The chip's elapsed-time timer level (R37). -/
  chipIrq : Bool
  /-- The ByteQueue, oldest first (R38). -/
  queue : List Byte
  /-- The ByteQueue command register (R39). -/
  queueMode : Byte
  /-- The timer control register (R40). -/
  tcr : Byte
  /-- R41. -/
  pending : PendingBits
  /-- The level last driven onto the host line (R43). -/
  hostIrqLevel : Bool
  /-- `ch[A]` (R44). -/
  chA : TimerChannel
  /-- `ch[B1]` (R44). -/
  chB1 : TimerChannel
  /-- `ch[B2]` (R44). -/
  chB2 : TimerChannel
  /-- `armed[A]`: the period in milliseconds of the callback asked for (R46). -/
  armedA : Option Rat
  /-- `armed[B]` (R46). -/
  armedB : Option Rat
  /-- The parameters of R7; no step changes them. -/
  cfg : Params
  /-- Where in its lifecycle the device is (R400, R403; log entries 10 and 12). -/
  phase : Phase
  /-- Transactions and events issued and not yet taken, next first (R82; log entry 5). -/
  inbox : List Cycle
  /-- R417. -/
  out : Outputs
  /-- The model's own: how many `draw()`s have been made (R9; log entry 1). -/
  draws : Nat
  deriving DecidableEq, Repr

/-- Where a step stops: situations the spec says do not occur, so that there is no step. All are safe (no next state). -/
inductive Fault where
  /-- Raised by `EV_FIRE_t` while timer t is not armed: "has a step only while" armed (R222, 93: stuck). Safe. -/
  | timerNotArmed (t : TimerId)
  /-- Raised for a cycle of the embedded processor or the chip without a firmware image: they issue none (R380). Safe. -/
  | firmwareAbsent
  /-- Raised for an internal port number wider than `INT_PORT_BITS`: the bus has no such port (R71). Safe. -/
  | noSuchPort (port : Nat)
  /-- Raised for anything after teardown: "no transaction or event occurs" (R403). Safe. -/
  | deviceTornDown
  /-- Raised for anything before construction but `EV_RESET`, "the first event of every run" (R400). Safe. -/
  | notConstructed
  /-- Raised by `EV_RESET` once the device is constructed: it "occurs exactly once" (R400). Safe. -/
  | alreadyConstructed
  deriving DecidableEq, Repr

/-- Why an item has no meaning. -/
inductive Refusal where
  /-- The instruction of this mnemonic is not modelled yet; raised by `exec` alone. Safe. -/
  | notModelled (mnemonic : String)
  /-- Raised by `step` for a packet that is no transaction, such as event codes 0101-1111 (R119). Safe. -/
  | noSuchTransaction (e : DecodeError)
  deriving DecidableEq, Repr

/-- A channel after construction (R401). -/
def Channel.reset : Channel := { value := 0x00#8, ready := false, rxEn := false, txEn := false }

/-- A timer channel after construction (R401). -/
def TimerChannel.reset : TimerChannel := { access := .latch, opMode := 0#4, latch := 0x0000#16, loadState := 0 }

/-- The block right after construction: every field of R401 at its value there, nothing issued yet. -/
def State.reset : State where
  h2d := .reset
  d2h := .reset
  extra := false
  chipIrq := false
  queue := []
  queueMode := 0x00#8
  tcr := 0x00#8
  pending := { a := false, b := false }
  hostIrqLevel := false
  chA := .reset
  chB1 := .reset
  chB2 := .reset
  armedA := none
  armedB := none
  cfg := .reference
  phase := .running
  inbox := []
  out := .empty
  draws := 0

/-- A session before its device is constructed, whose first event is `EV_RESET` (R400; log entry 10). -/
def State.unbuilt : State := { State.reset with phase := .unbuilt }

end Sys2Proof.Machine
end

