-- ==== Sys2Proof/Machine/Flags.lean ====
section
/-! DEFINITION. The flag and interrupt conditions: functions of the state, never stored (spec/10_state.md R33, R47;
spec/60_exceptions.md section 1). -/

namespace Sys2Proof.Machine

/-- `rxCond(c) = c.ready ∧ c.rxEn` (R33). -/
def Channel.rxCond (c : Channel) : Bool := c.ready && c.rxEn

/-- `txCond(c) = ¬c.ready ∧ c.txEn` (R33). -/
def Channel.txCond (c : Channel) : Bool := !c.ready && c.txEn

/-- TCR bit 2, `ENA` (R40, R115). -/
def tcrEnA (tcr : Byte) : Bool := tcr.getLsbD 2

/-- TCR bit 3, `ENB` (R40, R115). -/
def tcrEnB (tcr : Byte) : Bool := tcr.getLsbD 3

/-- TCR bit 4, `QINH` (R40, R115). -/
def tcrQInh (tcr : Byte) : Bool := tcr.getLsbD 4

/-- TCR bits 7:6, `GATE`: both set (R40, R115). -/
def tcrGate (tcr : Byte) : Bool := tcr.getLsbD 7 && tcr.getLsbD 6

/-- The queue interrupt condition: the literal formula, which does not read the queue (R183, 90_conflicts.md C1). -/
def State.qIrq (s : State) : Bool := s.queueMode.getLsbD 0 && !tcrQInh s.tcr

/-- The embedded-processor interrupt output, a level (R361). -/
def State.cpuIrq (s : State) : Bool := s.chipIrq || s.h2d.rxCond || s.d2h.txCond || s.qIrq

/-- The handshake conditions of the host domain (R114, R362). -/
def State.hsHost (s : State) : Bool := s.h2d.txCond || s.d2h.rxCond

/-- The active condition of the host domain (R362). -/
def State.hostActive (s : State) : Bool := (s.pending.a || s.pending.b || s.hsHost) && tcrGate s.tcr

/-- What the block drives onto host IRQ line `n`: it drives the one line `HOST_IRQ` (R6, R43, R81). -/
def State.hostLine (s : State) (n : Nat) : Bool := n == s.cfg.hostIrq && s.hostIrqLevel

end Sys2Proof.Machine
end

