-- ==== Sys2Proof/Machine/Operands.lean ====
section
/-! DEFINITION. How a data byte is taken apart and how a status byte is put together: the handshake control word, the
timer control word and port map, and the four status bytes (spec/30_encoding.md sections 3 to 6). -/

namespace Sys2Proof.Machine

/-- `val` of a handshake control word (R107). -/
def controlVal (cfg : Params) (v : Byte) : Bool := v.getLsbD cfg.cwValBit

/-- `sel` of a handshake control word, compared with bit positions of the status byte (R107, R108). -/
def controlSel (cfg : Params) (v : Byte) : Fin 8 := (v.extractLsb' cfg.cwSelLsb 3).toFin

/-- `SC` of a timer control word: the channel, none for code 3 (R112, R212). -/
def timerSelect (v : Byte) : Option ChannelId :=
  if v.extractLsb' 6 2 = 0#2 then some .a
  else if v.extractLsb' 6 2 = 1#2 then some .b1
  else if v.extractLsb' 6 2 = 2#2 then some .b2
  else none

/-- `RW` of a timer control word (R45, R112). -/
def timerAccess (v : Byte) : AccessMode :=
  if v.extractLsb' 4 2 = 0#2 then .latch
  else if v.extractLsb' 4 2 = 1#2 then .lowOnly
  else if v.extractLsb' 4 2 = 2#2 then .highOnly
  else .lowThenHigh

/-- `M` and `BCD` of a timer control word, stored together (R44, R112). -/
def timerOpMode (v : Byte) : BitVec 4 := v.extractLsb' 0 4

/-- The rate generator's pattern, the supported `M` (R213). -/
def rateGenerator (v : Byte) : Bool := v.extractLsb' 1 3 == 0b010#3

/-- The channel whose data port a timer port is; port 3 is the control port (R113). -/
def timerDataChannel (p : BitVec 2) : Option ChannelId :=
  if p = 0#2 then some .a
  else if p = 1#2 then some .b1
  else if p = 2#2 then some .b2
  else none

/-- Writes one bit of a byte. -/
def putBit (b : Byte) (pos : Fin 8) (x : Bool) : Byte :=
  if x then b ||| (1#8 <<< pos.val) else b &&& ~~~(1#8 <<< pos.val)

/-- A status byte: each field at its position, every other bit as `free` has it (R110, R116). -/
def placeBits (free : Byte) (fields : List (Fin 8 × Bool)) : Byte :=
  fields.foldl (fun b f => putBit b f.1 f.2) free

/-- The byte whose every bit is `HS_FREE`. -/
def hsFreeByte (cfg : Params) : Byte := if cfg.hsFree then 0xFF#8 else 0x00#8

/-- The handshake status byte of a view: `r` is the channel this side receives from, `t` the one it sends into. -/
def handshakeStatus (cfg : Params) (extra : Bool) (r t : Channel) : Byte :=
  placeBits (hsFreeByte cfg)
    [(cfg.hsPos.extra, extra), (cfg.hsPos.h2dReady, r.ready), (cfg.hsPos.h2dRxInt, r.rxCond),
     (cfg.hsPos.d2hNReady, !t.ready), (cfg.hsPos.d2hTxInt, t.txCond), (cfg.hsPos.h2dRxEn, r.rxEn),
     (cfg.hsPos.d2hTxEn, t.txEn)]

/-- The device-view status byte (R110). -/
def State.deviceStatus (s : State) : Byte := handshakeStatus s.cfg s.extra s.h2d s.d2h

/-- The host-view status byte: the same positions with H2D and D2H exchanged (R111). -/
def State.hostStatus (s : State) : Byte := handshakeStatus s.cfg s.extra s.d2h s.h2d

/-- The queue status byte (R116, R182). -/
def State.queueStatus (s : State) : Byte :=
  placeBits s.cfg.qStatFree
    [(s.cfg.qStatPos.notEmpty, decide (0 < s.queue.length)),
     (s.cfg.qStatPos.notFull, decide (s.queue.length < queueCapacity)),
     (s.cfg.qStatPos.qIrq, s.qIrq)]

/-- `0x80·hsHost | 0x7C | pending.B << 1 | pending.A` (R114). -/
def State.tsr (s : State) : Byte :=
  (if s.hsHost then 0x80#8 else 0x00#8) ||| 0x7C#8 |||
    ((if s.pending.b then 1#8 else 0#8) <<< 1) ||| (if s.pending.a then 1#8 else 0#8)

end Sys2Proof.Machine
end

