-- ==== Sys2Proof/Machine/Ops.lean ====
section
/-! DEFINITION. The operations the meanings share: outputs, the delivery of the host interrupt, the channel primitives
of spec/40_handshake.md, the ByteQueue of spec/41_bytequeue.md and the TimerPair of spec/42_timerpair.md. The block
takes no exception (spec/60_exceptions.md R370, R372); what stands in that place is `recomputeHostIrq`. -/

namespace Sys2Proof.Machine

/-- What the dispatch and the meanings answer. -/
abbrev Result := Host.Outcome State Fault Refusal

/-! ## Named updates -/

/-- Replaces the outputs. -/
def State.withOut (s : State) (o : Outputs) : State := { s with out := o }

/-- `s.h2d` or `s.d2h`. -/
def State.chan (s : State) : Chan → Channel
  | .h2d => s.h2d
  | .d2h => s.d2h

/-- Replaces one channel. -/
def State.setChan (s : State) (c : Chan) (x : Channel) : State :=
  match c with
  | .h2d => { s with h2d := x }
  | .d2h => { s with d2h := x }

/-- `s.ch[c]`. -/
def State.timer (s : State) : ChannelId → TimerChannel
  | .a => s.chA
  | .b1 => s.chB1
  | .b2 => s.chB2

/-- Replaces one timer channel. -/
def State.setTimer (s : State) (c : ChannelId) (x : TimerChannel) : State :=
  match c with
  | .a => { s with chA := x }
  | .b1 => { s with chB1 := x }
  | .b2 => { s with chB2 := x }

/-- `s.armed[t]`. -/
def State.armed (s : State) : TimerId → Option Rat
  | .a => s.armedA
  | .b => s.armedB

/-- Replaces `s.armed[t]`. -/
def State.setArmed (s : State) (t : TimerId) (p : Option Rat) : State :=
  match t with
  | .a => { s with armedA := p }
  | .b => { s with armedB := p }

/-! ## Outputs -/

/-- `return v` of an internal read. -/
def State.returnInternal (s : State) (v : Byte) : State :=
  s.withOut { s.out with intReads := s.out.intReads ++ [v] }

/-- `return v` of a host read. -/
def State.returnHost (s : State) (v : Byte) : State :=
  s.withOut { s.out with hostReads := s.out.hostReads ++ [v] }

/-- A call into the chip (R262). -/
def State.callChip (s : State) (c : ChipCall) : State :=
  s.withOut { s.out with chipCalls := s.out.chipCalls ++ [c] }

/-- `log(msg)` (R375). -/
def State.log (s : State) (d : Diag) : State :=
  s.withOut { s.out with diags := s.out.diags ++ [d] }

/-- `emit HostIrq(level)` (R9, R363). -/
def State.emitHostIrq (s : State) (level : Bool) : State :=
  s.withOut { s.out with irqEdges := s.out.irqEdges ++ [level] }

/-- `draw()`: a byte of which nothing is known, and the state that has made one more draw (R9; log entry 1). -/
def State.draw (s : State) : Byte × State := (Config.freeByte s.draws, { s with draws := s.draws + 1 })

/-! ## Host interrupt delivery -/

/-- `recomputeHostIrq()`: on a transition of the active condition the level follows and an edge is emitted (R363). -/
def State.recomputeHostIrq (s : State) : State :=
  if s.hostActive = s.hostIrqLevel then s
  else { s with hostIrqLevel := s.hostActive }.emitHostIrq s.hostActive

/-- The end of every transaction rule: it has run to completion, then the host interrupt is recomputed (R10). -/
def complete (s : State) : Result := .next s.recomputeHostIrq

/-! ## HandshakeChannel primitives (spec/40_handshake.md) -/

/-- `put(c, b)` (R150). -/
def State.put (s : State) (c : Chan) (b : Byte) : State :=
  (s.setChan c { s.chan c with value := b, ready := true }).recomputeHostIrq

/-- `get(c)` (R151): the stored value, and the state with `ready` cleared. -/
def State.get (s : State) (c : Chan) : Byte × State :=
  ((s.chan c).value, (s.setChan c { s.chan c with ready := false }).recomputeHostIrq)

/-- `peek(c)` (R152). -/
def State.peek (s : State) (c : Chan) : Byte := (s.chan c).value

/-- `setRxInterruptEnabled(c, e)` (R153). -/
def State.setRxInterruptEnabled (s : State) (c : Chan) (e : Bool) : State :=
  (s.setChan c { s.chan c with rxEn := e }).recomputeHostIrq

/-- `setTxInterruptEnabled(c, e)` (R154). -/
def State.setTxInterruptEnabled (s : State) (c : Chan) (e : Bool) : State :=
  (s.setChan c { s.chan c with txEn := e }).recomputeHostIrq

/-! ## ByteQueue (spec/41_bytequeue.md) -/

/-- `EV_ENQUEUE` (R180): as many bytes as fit are appended, the rest discarded. -/
def State.enqueue (s : State) (bytes : List Byte) : State :=
  { s with queue := s.queue ++ bytes.take (queueCapacity - s.queue.length) }

/-- `dequeueOne()` (R181): the oldest byte, or `none` for "no data". -/
def State.dequeueOne (s : State) : Option Byte × State :=
  match s.queue with
  | [] => (none, s)
  | b :: rest => (some b, { s with queue := rest })

/-- `setQueueMode(v)` (R184). -/
def State.setQueueMode (s : State) (v : Byte) : State := { s with queueMode := v }

/-! ## TimerPair (spec/42_timerpair.md) -/

/-- `timerOf` (preamble of 42_timerpair.md). -/
def timerOf : ChannelId → TimerId
  | .a => .a
  | .b1 | .b2 => .b

/-- `schedule(t, p)`: replaces any callback of t (R9, R46). -/
def State.schedule (s : State) (t : TimerId) (p : Rat) : State :=
  (s.setArmed t (some p)).withOut { s.out with schedCalls := s.out.schedCalls ++ [.schedule t p] }

/-- `cancel(t)` (R9, R46). -/
def State.cancel (s : State) (t : TimerId) : State :=
  (s.setArmed t none).withOut { s.out with schedCalls := s.out.schedCalls ++ [.cancel t] }

/-- `INIT_LOAD` (R211). -/
def initLoad : AccessMode → Fin 6
  | .latch => 0
  | .lowOnly => 2
  | .highOnly => 2
  | .lowThenHigh => 1

/-- The loadState after one more data byte: `old + 1`, with values above 5 folded to 4 (R214). -/
def nextLoad (old : Fin 6) : Fin 6 := if h : old.val + 1 < 6 then ⟨old.val + 1, h⟩ else 4

/-- `merge`: how a data byte enters the latch (R215). `lowThenHigh` at loadState 0 cannot occur (log entry 9). -/
def mergeLatch (m : AccessMode) (old : Fin 6) (latch : LatchWord) (v : Byte) : LatchWord :=
  match m with
  | .latch => latch
  | .lowOnly => 0#8 ++ v
  | .highOnly => v ++ 0#8
  | .lowThenHigh =>
    if old.val % 2 = 1 then latch.extractLsb' 8 8 ++ v else v ++ latch.extractLsb' 0 8

/-- The count a latch stands for: 0 means 0x10000 (R216, R217). -/
def reload (latch : LatchWord) : Nat := if latch = 0#16 then 0x10000 else latch.toNat

/-- `loadCompleteA()` (R216). -/
def State.loadCompleteA (s : State) : State :=
  s.schedule .a (1000 / s.cfg.clkA * (reload s.chA.latch : Rat))

/-- `loadCompleteB()` (R217): only once both stages have completed a load. -/
def State.loadCompleteB (s : State) : State :=
  if 3 ≤ s.chB1.loadState.val ∧ 3 ≤ s.chB2.loadState.val then
    s.schedule .b (1000 / s.cfg.clkB * (reload s.chB1.latch : Rat) * (reload s.chB2.latch : Rat))
  else s

/-- What a load of channel c completes (R214). -/
def State.loadComplete (s : State) (c : ChannelId) : State :=
  match c with
  | .a => s.loadCompleteA
  | .b1 | .b2 => s.loadCompleteB

/-- `dataWrite(c, v)` (R214). -/
def State.dataWrite (s : State) (c : ChannelId) (v : Byte) : State :=
  let ch := s.timer c
  let s' := s.setTimer c { ch with
    latch := mergeLatch ch.access ch.loadState ch.latch v, loadState := nextLoad ch.loadState }
  if nextLoad ch.loadState = 3 then s'.loadComplete c else s'

/-- A control word for channel c (R211). -/
def State.programChannel (s : State) (c : ChannelId) (v : Byte) : State :=
  let s' := (s.setTimer c { s.timer c with
    access := timerAccess v, opMode := timerOpMode v, loadState := initLoad (timerAccess v) }).cancel (timerOf c)
  if rateGenerator v then s' else s'.log (.unsupportedTimerMode v)

/-- `controlWrite(v)` (R211, R212). -/
def State.controlWrite (s : State) (v : Byte) : State :=
  match timerSelect v with
  | some c => s.programChannel c v
  | none => s.log (.noTimerChannel v)

/-- `timerWrite(p, v)` (R210). -/
def State.timerWrite (s : State) (p : BitVec 2) (v : Byte) : State :=
  match timerDataChannel p with
  | some c => s.dataWrite c v
  | none => s.controlWrite v

/-- `timerRead(p)`: there is no read-back path (R221). -/
def timerRead (_p : BitVec 2) : Byte := 0x00#8

/-- A firing of timer t sets its pending bit iff its TCR enable is set; the callback stays armed (R219, R220). -/
def State.fire (s : State) (t : TimerId) : State :=
  match t with
  | .a => { s with pending := { s.pending with a := s.pending.a || tcrEnA s.tcr } }
  | .b => { s with pending := { s.pending with b := s.pending.b || tcrEnB s.tcr } }

/-- An event of timer t is admitted only while t is armed (R222). -/
def fireIfArmed (t : TimerId) (s : State) : Result :=
  match s.armed t with
  | none => .fault (.timerNotArmed t)
  | some _ => complete (s.fire t)

/-! ## Unmapped space -/

/-- The value an unmapped read returns on either bus (R261, R311). -/
def allOnes : Byte := 0xFF#8

/-- An unmapped internal read (R261). -/
def unmappedInternalRead (port : BitVec 6) (s : State) : Result :=
  complete ((s.log (.unmappedInternalRead port)).returnInternal allOnes)

/-- An unmapped internal write (R280). -/
def unmappedInternalWrite (port : BitVec 6) (v : Byte) (s : State) : Result :=
  complete (s.log (.unmappedInternalWrite port v))

/-- An unmapped host read (R311). -/
def unmappedHostRead (sub : BitVec 4) (s : State) : Result :=
  complete ((s.log (.unmappedHostRead sub)).returnHost allOnes)

/-- An unmapped host write (R312). -/
def unmappedHostWrite (sub : BitVec 4) (v : Byte) (s : State) : Result :=
  complete (s.log (.unmappedHostWrite sub v))

end Sys2Proof.Machine
end

