-- ==== Sys2Proof/Machine/Bus.lean ====
section
/-! DEFINITION. From what an agent does on its interface to the packet the decoder reads (spec/20_memory.md section 1,
spec/44_internal_ports.md R260, spec/45_host_ports.md R310, spec/60_exceptions.md R380), and teardown (R403). -/

namespace Sys2Proof.Machine

/-- Where an item of the total order leads. -/
inductive Route where
  /-- It cannot occur. -/
  | stop (f : Fault)
  /-- The block does not see it, or it has no effect on the block. -/
  | elsewhere
  /-- The device is torn down. -/
  | teardown
  /-- A packet for the decoder. -/
  | packet (f : Format) (bytes : List Byte)
  deriving DecidableEq, Repr

/-- The item is the construction of the device (R102, R400). -/
def Cycle.constructs : Cycle → Bool
  | .event code _ => code == 0#4
  | .intRead _ | .intWrite _ _ | .intAck | .hostRead _ | .hostWrite _ _ | .teardown => false

/-- Why the lifecycle lets nothing occur, the next item being as given: construction comes first (R400), and after
teardown nothing does (R403). -/
def Phase.stops : Phase → Option Cycle → Option Fault
  | .unbuilt, some c => if c.constructs then none else some .notConstructed
  | .unbuilt, none => none
  | .running, _ => none
  | .tornDown, _ => some .deviceTornDown

/-- The phase in which an item can occur: construction in a session not yet begun, anything else while the device is
running. -/
def Cycle.phase (c : Cycle) : Phase := if c.constructs then .unbuilt else .running

/-- The items only the embedded processor and the chip issue; without a firmware image they issue none (R380). -/
def Cycle.needsFirmware : Cycle → Bool
  | .intRead _ | .intWrite _ _ | .intAck => true
  | .hostRead _ | .hostWrite _ _ | .teardown => false
  | .event code _ => code == 4#4

/-- An internal bus access: the code holds port bits 5:0 and no higher bit (R71, R100). -/
def routeInternal (cfg : Params) (w : BitVec 1) (port : Nat) (operands : List Byte) : Route :=
  if port < 2 ^ cfg.intPortBits then
    .packet .internal (internalCode w (BitVec.ofNat 2 (port / 16)) (BitVec.ofNat 4 port) :: operands)
  else .stop (.noSuchPort port)

/-- A host bus access: the sub-address is `addr − HOST_BASE`, and outside the window the block sees nothing (R72, R105). -/
def routeHost (cfg : Params) (w : BitVec 1) (addr : Nat) (operands : List Byte) : Route :=
  if cfg.hostBase ≤ addr ∧ addr < cfg.hostBase + hostPorts then
    .packet .host (hostCode w (BitVec.ofNat 4 (addr - cfg.hostBase)) :: operands)
  else .elsewhere

/-- Where each item leads while the agents that issue it are running. -/
def Cycle.routeRunning (cfg : Params) : Cycle → Route
  | .intRead port => routeInternal cfg 0#1 port []
  | .intWrite port v => routeInternal cfg 1#1 port [v]
  | .intAck => .elsewhere
  | .hostRead addr => routeHost cfg 0#1 addr []
  | .hostWrite addr v => routeHost cfg 1#1 addr [v]
  | .event code operands => .packet .event (code.setWidth 8 :: operands)
  | .teardown => .teardown

/-- Where an item leads. -/
def Cycle.route (cfg : Params) (c : Cycle) : Route :=
  if c.needsFirmware ∧ cfg.fwPresent = false then .stop .firmwareAbsent else c.routeRunning cfg

/-- Teardown: the timer events are removed and nothing occurs afterwards (R403). -/
def State.tearDown (s : State) : State :=
  { s with
    armedA := none, armedB := none, phase := .tornDown
    out := { s.out with schedCalls := s.out.schedCalls ++ [.cancel .a, .cancel .b] } }

/-- The item by which the agent of a format issues a code with its operand bytes. -/
def cycleOf (cfg : Params) (f : Format) (code : Byte) (operands : List Byte) : Cycle :=
  match f with
  | .internal =>
    if code.getLsbD 6 then .intWrite (code.extractLsb' 0 6).toNat (operands.headD 0#8)
    else .intRead (code.extractLsb' 0 6).toNat
  | .host =>
    if code.getLsbD 4 then .hostWrite (cfg.hostBase + (code.extractLsb' 0 4).toNat) (operands.headD 0#8)
    else .hostRead (cfg.hostBase + (code.extractLsb' 0 4).toNat)
  | .event => .event (code.setWidth 4) operands

/-- The item that stands for a word of spec/opcode_table.json; a word that is no code of any format becomes an event
code that is no event. -/
def tableCycle (cfg : Params) (nbits w : Nat) : Cycle :=
  match tableFormat nbits w with
  | some f => cycleOf cfg f (tableCode w) (tableOperands f nbits w)
  | none => .event 15#4 []

end Sys2Proof.Machine
end

