-- ==== Sys2Proof/Machine/Events.lean ====
section
/-! DEFINITION. The meanings of format E, the external events (spec/30_encoding.md R102). -/

namespace Sys2Proof.Machine

/-- The report of a missing firmware image, made at construction (R371, R380). -/
def firmwareReport (cfg : Params) : List Diag := if cfg.fwPresent then [] else [.missingFirmware]

/-- Construction: the block's fields at the values of R401, and the device running. The parameters, the transactions
still to come, the outputs and the draw counter are no state of the block and stay, but for the firmware report. -/
def State.construct (s : State) : State :=
  { State.reset with
    cfg := s.cfg, inbox := s.inbox, draws := s.draws
    out := { s.out with diags := s.out.diags ++ firmwareReport s.cfg } }

/-- `EV_RESET` (R400): construction, which no `HostIrq` accompanies. It occurs once: there is no soft reset (D22). -/
def execEvReset (s : State) : Result :=
  match s.phase with
  | .unbuilt => complete s.construct
  | .running | .tornDown => .fault .alreadyConstructed

/-- `EV_ENQUEUE` (R180). -/
def execEvEnqueue (bytes : List Byte) (s : State) : Result := complete (s.enqueue bytes)

/-- `EV_FIRE_A` (R219, R222). -/
def execEvFireA (s : State) : Result := fireIfArmed .a s

/-- `EV_FIRE_B` (R220, R222). -/
def execEvFireB (s : State) : Result := fireIfArmed .b s

/-- `EV_CHIP_LEVEL` (R381). -/
def execEvChipLevel (lvl : Bool) (s : State) : Result := complete { s with chipIrq := lvl }

end Sys2Proof.Machine
end

