-- ==== Sys2Proof/Machine/HostPorts.lean ====
section
/-! DEFINITION. The meanings of format H, the host port interface (spec/45_host_ports.md). -/

namespace Sys2Proof.Machine

/-! ## Reads -/

/-- `H_GET_D2H` (R313). -/
def execHGetD2h (s : State) : Result :=
  let (v, s') := s.get .d2h
  complete (s'.returnHost v)

/-- `H_PEEK_H2D` (R314). -/
def execHPeekH2d (s : State) : Result := complete (s.returnHost (s.peek .h2d))

/-- `H_STATUS_RD` (R315). -/
def execHStatusRd (s : State) : Result := complete (s.returnHost s.hostStatus)

/-- `H_RD_3` (R316): unmapped. -/
def execHRd3 (s : State) : Result := unmappedHostRead 0x3#4 s

/-- `H_TIMER_RD` (R317, 90_conflicts.md C2). -/
def execHTimerRd (p : BitVec 2) (s : State) : Result := complete (s.returnHost (timerRead p))

/-- `H_RD_TCR_SPACE` (R318): unmapped. -/
def execHRdTcrSpace (ss : BitVec 2) (s : State) : Result := unmappedHostRead (2#2 ++ ss) s

/-- `H_TSR_RD` (R319): reading clears nothing. -/
def execHTsrRd (_ss : BitVec 2) (s : State) : Result := complete (s.returnHost s.tsr)

/-! ## Writes -/

/-- `H_WR_0_2` (R320): unmapped. -/
def execHWr02 (b : BitVec 1) (v : Byte) (s : State) : Result := unmappedHostWrite (0#2 ++ b ++ 0#1) v s

/-- `H_PUT_H2D` (R321). -/
def execHPutH2d (v : Byte) (s : State) : Result := complete (s.put .h2d v)

/-- `H_CTRL_WR` (R322, R109): one host-side enable; the extra-flag is out of the host's reach. -/
def execHCtrlWr (v : Byte) (s : State) : Result :=
  let val := controlVal s.cfg v
  let sel := controlSel s.cfg v
  complete (
    if sel = s.cfg.hsPos.h2dRxEn then s.setRxInterruptEnabled .d2h val
    else if sel = s.cfg.hsPos.d2hTxEn then s.setTxInterruptEnabled .h2d val
    else s.log (.unselectedControlBit v))

/-- `H_TIMER_WR` (R323). -/
def execHTimerWr (p : BitVec 2) (v : Byte) (s : State) : Result := complete (s.timerWrite p v)

/-- `H_TCR_WR` (R324): the value is stored, and a pending bit whose enable it makes 0 is cleared. -/
def execHTcrWr (_ss : BitVec 2) (v : Byte) (s : State) : Result :=
  complete ({ s with
    tcr := v
    pending := { a := s.pending.a && tcrEnA v, b := s.pending.b && tcrEnB v } }.recomputeHostIrq)

/-- `H_WR_TSR_SPACE` (R325): unmapped. -/
def execHWrTsrSpace (ss : BitVec 2) (v : Byte) (s : State) : Result := unmappedHostWrite (3#2 ++ ss) v s

end Sys2Proof.Machine
end

