-- ==== Sys2Proof/Machine/InternalPorts.lean ====
section
/-! DEFINITION. The meanings of format I, the InternalPortDecoder (spec/44_internal_ports.md). -/

namespace Sys2Proof.Machine

/-! ## Group 0: synthesis chip -/

/-- `INT_CHIP_RD_EVEN` (R264): unmapped. -/
def execIntChipRdEven (sss : BitVec 3) (s : State) : Result := unmappedInternalRead (0#2 ++ sss ++ 0#1) s

/-- `INT_CHIP_STATUS_RD` (R263): `chip.status()`, whose value is the chip's, a draw (R262). All odd sub-addresses alias. -/
def execIntChipStatusRd (_sss : BitVec 3) (s : State) : Result :=
  let (v, s') := (s.callChip .status).draw
  complete (s'.returnInternal v)

/-- `INT_CHIP_ADDR_WR` (R265). -/
def execIntChipAddrWr (_sss : BitVec 3) (v : Byte) (s : State) : Result := complete (s.callChip (.writeAddr v))

/-- `INT_CHIP_DATA_WR` (R266). -/
def execIntChipDataWr (_sss : BitVec 3) (v : Byte) (s : State) : Result := complete (s.callChip (.writeData v))

/-! ## Group 1: ByteQueue -/

/-- `INT_Q_DATA_RD` (R267): the oldest byte, or a draw when there is none. -/
def execIntQDataRd (_sss : BitVec 3) (s : State) : Result :=
  match s.dequeueOne with
  | (some b, s') => complete (s'.returnInternal b)
  | (none, s') =>
    let (v, s'') := s'.draw
    complete (s''.returnInternal v)

/-- `INT_Q_STATUS_RD` (R268). -/
def execIntQStatusRd (_sss : BitVec 3) (s : State) : Result := complete (s.returnInternal s.queueStatus)

/-- `INT_Q_DATA_WR` (R269): as `Q_DATA_WRITE` says. -/
def execIntQDataWr (_sss : BitVec 3) (v : Byte) (s : State) : Result :=
  complete (match s.cfg.qDataWrite with
    | .ignore => s.log (.queueDataWrite v)
    | .enqueue => s.enqueue [v])

/-- `INT_Q_CMD_WR` (R270). -/
def execIntQCmdWr (_sss : BitVec 3) (v : Byte) (s : State) : Result := complete (s.setQueueMode v)

/-! ## Group 2: handshake ports, device view -/

/-- `INT_HS_PEEK_D2H` (R271). -/
def execIntHsPeekD2h (s : State) : Result := complete (s.returnInternal (s.peek .d2h))

/-- `INT_HS_GET_H2D` (R272). -/
def execIntHsGetH2d (s : State) : Result :=
  let (v, s') := s.get .h2d
  complete (s'.returnInternal v)

/-- `INT_HS_STATUS_RD` (R273). -/
def execIntHsStatusRd (s : State) : Result := complete (s.returnInternal s.deviceStatus)

/-- `INT_HS_RD_UNMAPPED` (R274). -/
def execIntHsRdUnmapped (sub : BitVec 4) (s : State) : Result := unmappedInternalRead (2#2 ++ sub) s

/-- `INT_HS_PUT_D2H` (R275). -/
def execIntHsPutD2h (v : Byte) (s : State) : Result := complete (s.put .d2h v)

/-- `INT_HS_WR_UNMAPPED` (R277). -/
def execIntHsWrUnmapped (sub : BitVec 4) (v : Byte) (s : State) : Result := unmappedInternalWrite (2#2 ++ sub) v s

/-- `INT_HS_CTRL_WR` (R276, R108): one device-side enable or the extra-flag. -/
def execIntHsCtrlWr (v : Byte) (s : State) : Result :=
  let val := controlVal s.cfg v
  let sel := controlSel s.cfg v
  complete (
    if sel = s.cfg.hsPos.h2dRxEn then s.setRxInterruptEnabled .h2d val
    else if sel = s.cfg.hsPos.d2hTxEn then s.setTxInterruptEnabled .d2h val
    else if sel = s.cfg.hsPos.extra then { s with extra := val }
    else s.log (.unselectedControlBit v))

/-! ## Group 3 -/

/-- `INT_G3_RD` (R278): as `G3_MAP` says. -/
def execIntG3Rd (sub : BitVec 4) (s : State) : Result :=
  complete (match s.cfg.g3Map with
    | .unmapped => (s.log (.unmappedInternalRead (3#2 ++ sub))).returnInternal allOnes
    | .timerPorts => s.returnInternal (timerRead (sub.extractLsb' 0 2)))

/-- `INT_G3_WR` (R279): as `G3_MAP` says. -/
def execIntG3Wr (sub : BitVec 4) (v : Byte) (s : State) : Result :=
  complete (match s.cfg.g3Map with
    | .unmapped => s.log (.unmappedInternalWrite (3#2 ++ sub) v)
    | .timerPorts => s.timerWrite (sub.extractLsb' 0 2) v)

end Sys2Proof.Machine
end

