-- ==== Sys2Proof/Machine/Dispatch.lean ====
section
/-! DEFINITION. One arm per instruction: its meaning. -/

namespace Sys2Proof.Machine

def exec (i : Instr) (s : State) : Host.Outcome State Fault Refusal :=
  match i with
  | .intChipRdEven sss => Sys2Proof.Machine.execIntChipRdEven sss s
  | .intChipStatusRd sss => Sys2Proof.Machine.execIntChipStatusRd sss s
  | .intChipAddrWr sss v => Sys2Proof.Machine.execIntChipAddrWr sss v s
  | .intChipDataWr sss v => Sys2Proof.Machine.execIntChipDataWr sss v s
  | .intQDataRd sss => Sys2Proof.Machine.execIntQDataRd sss s
  | .intQStatusRd sss => Sys2Proof.Machine.execIntQStatusRd sss s
  | .intQDataWr sss v => Sys2Proof.Machine.execIntQDataWr sss v s
  | .intQCmdWr sss v => Sys2Proof.Machine.execIntQCmdWr sss v s
  | .intHsPeekD2h => Sys2Proof.Machine.execIntHsPeekD2h s
  | .intHsGetH2d => Sys2Proof.Machine.execIntHsGetH2d s
  | .intHsStatusRd => Sys2Proof.Machine.execIntHsStatusRd s
  | .intHsRdUnmapped sub => Sys2Proof.Machine.execIntHsRdUnmapped sub s
  | .intHsPutD2h v => Sys2Proof.Machine.execIntHsPutD2h v s
  | .intHsWrUnmapped sub v => Sys2Proof.Machine.execIntHsWrUnmapped sub v s
  | .intHsCtrlWr v => Sys2Proof.Machine.execIntHsCtrlWr v s
  | .intG3Rd sub => Sys2Proof.Machine.execIntG3Rd sub s
  | .intG3Wr sub v => Sys2Proof.Machine.execIntG3Wr sub v s
  | .hGetD2h => Sys2Proof.Machine.execHGetD2h s
  | .hPeekH2d => Sys2Proof.Machine.execHPeekH2d s
  | .hStatusRd => Sys2Proof.Machine.execHStatusRd s
  | .hRd3 => Sys2Proof.Machine.execHRd3 s
  | .hTimerRd p => Sys2Proof.Machine.execHTimerRd p s
  | .hRdTcrSpace ss => Sys2Proof.Machine.execHRdTcrSpace ss s
  | .hTsrRd ss => Sys2Proof.Machine.execHTsrRd ss s
  | .hWr02 b v => Sys2Proof.Machine.execHWr02 b v s
  | .hPutH2d v => Sys2Proof.Machine.execHPutH2d v s
  | .hCtrlWr v => Sys2Proof.Machine.execHCtrlWr v s
  | .hTimerWr p v => Sys2Proof.Machine.execHTimerWr p v s
  | .hTcrWr ss v => Sys2Proof.Machine.execHTcrWr ss v s
  | .hWrTsrSpace ss v => Sys2Proof.Machine.execHWrTsrSpace ss v s
  | .evReset => Sys2Proof.Machine.execEvReset s
  | .evEnqueue bytes => Sys2Proof.Machine.execEvEnqueue bytes s
  | .evFireA => Sys2Proof.Machine.execEvFireA s
  | .evFireB => Sys2Proof.Machine.execEvFireB s
  | .evChipLevel lvl => Sys2Proof.Machine.execEvChipLevel lvl s

end Sys2Proof.Machine
end

