-- ==== Sys2Proof/Machine/Step.lean ====
section
/-! DEFINITION. One step: the next item of the total order takes effect, whole (spec/20_memory.md R82). -/

namespace Sys2Proof.Machine

/-- The packet is decoded and its instruction runs to completion. -/
def runPacket (f : Format) (bytes : List Byte) (s : State) : Host.Outcome State Fault Refusal :=
  match decode s.cfg.qDataParity f bytes with
  | .ok i => exec i s
  | .error e => .refused (.noSuchTransaction e)

/-- The step. Before construction nothing but it occurs, and after teardown nothing does (R400, R403). With no item
issued the block stays as it is, since it has no activity of its own (R417; log entry 5). Otherwise the next item is
taken from the inbox and takes effect. -/
def step (s : State) : Host.Outcome State Fault Refusal :=
  match s.phase.stops s.inbox.head? with
  | some f => .fault f
  | none =>
    match s.inbox with
    | [] => .next s
    | c :: rest =>
      match c.route s.cfg with
      | .stop f => .fault f
      | .elsewhere => .next { s with inbox := rest }
      | .teardown => .next { s with inbox := rest }.tearDown
      | .packet f bytes => runPacket f bytes { s with inbox := rest }

/-- The state whose next step runs the instruction of a table word: the word stands first in the inbox, the session is
in the phase in which that item can occur, and the agents that issue transactions are running (log entry 5). -/
def State.withFetchWord (s : State) (nbits w : Nat) : State :=
  { s with
    inbox := tableCycle s.cfg nbits w :: s.inbox
    phase := (tableCycle s.cfg nbits w).phase
    cfg := { s.cfg with fwPresent := true } }

end Sys2Proof.Machine
end

