-- ==== Sys2Proof/Safety.lean ====
section
/-! DEFINITION. The terms in which the statements speak: what completing with given writes means, runs of several
transactions, the invariant of a safe state, and the rules' own arithmetic written a second time, on numbers and bits,
so that a statement does not lean on the function it is about. -/

namespace Sys2Proof.Machine

/-! ## Completion and frame -/

/-- `u` after `recomputeHostIrq` (R363), spelled out: the level is the active condition, and an edge is emitted
exactly if that is a transition. Nothing else differs from `u`. -/
def settled (u : State) : State :=
  { u with
    hostIrqLevel := u.hostActive
    out := { u.out with
      irqEdges := u.out.irqEdges ++ (if u.hostActive = u.hostIrqLevel then [] else [u.hostActive]) } }

/-- `i` completes from `s`, and `u`, which is `s` with the instruction's own writes, says all it does but for the
delivery of the host interrupt that ends every transaction (R10). It is the result and the frame in one. -/
def CompletesAs (i : Instr) (s u : State) : Prop := exec i s = .next (settled u)

/-- `i` completes as an internal read that returns `b` and writes nothing. -/
def ReadsInternal (i : Instr) (s : State) (b : Byte) : Prop :=
  CompletesAs i s { s with out := { s.out with intReads := s.out.intReads ++ [b] } }

/-- `i` completes as a host read that returns `b` and writes nothing. -/
def ReadsHost (i : Instr) (s : State) (b : Byte) : Prop :=
  CompletesAs i s { s with out := { s.out with hostReads := s.out.hostReads ++ [b] } }

/-- Several instructions one after the other, stopping at the first fault or refusal. -/
def execAll : List Instr → State → Result
  | [], s => .next s
  | i :: is, s =>
    match exec i s with
    | .next s' => execAll is s'
    | .fault f => .fault f
    | .refused r => .refused r

/-! ## The handshake sequence law (R155) -/

/-- The operations of R155 on one channel. -/
inductive ChannelOp where
  | put (b : Byte)
  | get
  | peek
  deriving DecidableEq, Repr

/-- The transaction by which an operation reaches a channel. -/
def ChannelOp.instr : Chan → ChannelOp → Instr
  | .h2d, .put b => .hPutH2d b
  | .h2d, .get => .intHsGetH2d
  | .h2d, .peek => .hPeekH2d
  | .d2h, .put b => .intHsPutD2h b
  | .d2h, .get => .hGetD2h
  | .d2h, .peek => .intHsPeekD2h

/-- The bytes the reader of a channel has been given: the device reads H2D, the host reads D2H. -/
def State.readsOf (s : State) : Chan → List Byte
  | .h2d => s.out.intReads
  | .d2h => s.out.hostReads

/-! ## The timer rules, written on numbers -/

/-- `[Latch, LowOnly, HighOnly, LowThenHigh][v[5:4]]` with its `INIT_LOAD` (R211, R45). -/
def controlWordAccess (v : Byte) : AccessMode × Fin 6 :=
  match v.toNat / 16 % 4 with
  | 0 => (.latch, 0)
  | 1 => (.lowOnly, 2)
  | 2 => (.highOnly, 2)
  | _ => (.lowThenHigh, 1)

/-- A channel after a control word `v` (R211): the latch stays. -/
def programmed (ch : TimerChannel) (v : Byte) : TimerChannel :=
  { access := (controlWordAccess v).1, opMode := BitVec.ofNat 4 v.toNat, latch := ch.latch,
    loadState := (controlWordAccess v).2 }

/-- The diagnostics after a control word: one more if `M` is not the rate generator's 0b010 (R211, R213). -/
def modeDiags (ds : List Diag) (v : Byte) : List Diag :=
  if v.toNat / 2 % 8 = 2 then ds else ds ++ [.unsupportedTimerMode v]

/-- The number in the latch after a data byte (R215). -/
def mergedLatch (ch : TimerChannel) (v : Byte) : Nat :=
  match ch.access with
  | .latch => ch.latch.toNat
  | .lowOnly => v.toNat
  | .highOnly => 256 * v.toNat
  | .lowThenHigh =>
    if ch.loadState.val = 1 ∨ ch.loadState.val = 3 ∨ ch.loadState.val = 5 then
      256 * (ch.latch.toNat / 256) + v.toNat
    else 256 * v.toNat + ch.latch.toNat % 256

/-- A channel after a data byte (R214, R215). -/
def loaded (ch : TimerChannel) (v : Byte) : TimerChannel :=
  { ch with
    latch := BitVec.ofNat 16 (mergedLatch ch v)
    loadState := if ch.loadState.val < 5 then Fin.ofNat 6 (ch.loadState.val + 1) else 4 }

/-- `if latch = 0 then 0x10000 else latch` (R216, R217). -/
def latchCount (ch : TimerChannel) : Nat := if ch.latch.toNat = 0 then 65536 else ch.latch.toNat

/-! ## Safe states -/

/-- The level of a line after edges, from a level before them; `none` if an edge repeats the level it finds. -/
def replayEdges : Bool → List Bool → Option Bool
  | level, [] => some level
  | level, e :: es => if e = level then none else replayEdges e es

/-- The invariant of a safe state. -/
structure State.Inv (s : State) : Prop where
  /-- The parameters are legal (R7). -/
  cfg_wf : s.cfg.Wf
  /-- Before construction nothing has been put out (R400). -/
  unbuilt_silent : s.phase = .unbuilt → s.out = .empty
  /-- The queue never holds more than 64 bytes (R38). -/
  queue_le : s.queue.length ≤ 64
  /-- A pending bit is set only while its enable is (R42). -/
  pendingA_enabled : s.pending.a = true → s.tcr.getLsbD 2 = true
  pendingB_enabled : s.pending.b = true → s.tcr.getLsbD 3 = true
  /-- The line last driven equals the active condition (R365). -/
  line_settled : s.hostIrqLevel = s.hostActive
  /-- The edges emitted alternate, a raise first, and end at the level held (R365). -/
  edges_alternate : replayEdges false s.out.irqEdges = some s.hostIrqLevel
  /-- Under `LowThenHigh` a loadState is never 0 (R215). -/
  lowThenHighA : s.chA.access = .lowThenHigh → 1 ≤ s.chA.loadState.val
  lowThenHighB1 : s.chB1.access = .lowThenHigh → 1 ≤ s.chB1.loadState.val
  lowThenHighB2 : s.chB2.access = .lowThenHigh → 1 ≤ s.chB2.loadState.val
  /-- Timer A is armed only with its load complete, at a period within the bounds of R218. -/
  armedA_loaded : ∀ p, s.armedA = some p →
    3 ≤ s.chA.loadState.val ∧ 1000 / s.cfg.clkA ≤ p ∧ p ≤ 65536000 / s.cfg.clkA
  /-- Timer B is armed only with both loads complete (R409), at a period within the bounds of R218. -/
  armedB_loaded : ∀ p, s.armedB = some p →
    3 ≤ s.chB1.loadState.val ∧ 3 ≤ s.chB2.loadState.val ∧
      1000 / s.cfg.clkB ≤ p ∧ p ≤ 2 ^ 32 * 1000 / s.cfg.clkB

end Sys2Proof.Machine
end

