-- ==== Sys2Proof/Certificates/Slice0/Obligations.lean ====
section
/-! DEFINITION. The statements for the provers. Each docstring names the rule of spec/ it formalises, or says which
choice (of the spec or of the model) it rests on. Every statement holds for every value of the parameters of R7 that
State carries, unless it names the values it is about. -/

open Sys2Proof Sys2Proof.Machine

/-! ## Encoding -/

/-- Decode of encode is the instruction, for every well-formed instruction, every operand and either queue parity. -/
def Obligations.DecodeEncodeRoundTrip : Prop :=
  ∀ (par : Parity) (i : Instr), i.wf = true → decode par i.format (encode par i) = .ok i

/-- A packet that decodes is the encoding of what it decodes to, which is well-formed and of that format. So every
packet has at most one meaning and no accepted bit is dropped. -/
def Obligations.EncodeDecodeRoundTrip : Prop :=
  ∀ (par : Parity) (f : Format) (bytes : List Byte) (i : Instr), decode par f bytes = .ok i →
    i.format = f ∧ i.wf = true ∧ encode par i = bytes

/-- R124 and R119: every code of both buses and event codes 0 to 4 are decoded; event codes 5 to 15 are no event. How the
operands of `EV_ENQUEUE` and `EV_CHIP_LEVEL` follow their code is the model's choice (DESIGN CHOICE, log entry 6). -/
def Obligations.EveryBusCodeDecodes : Prop :=
  ∀ (par : Parity) (c v : Byte) (operands : List Byte),
    (c.toNat < 64 → ∃ i, decode par .internal [c] = .ok i) ∧
    (64 ≤ c.toNat ∧ c.toNat < 128 → ∃ i, decode par .internal [c, v] = .ok i) ∧
    (c.toNat < 16 → ∃ i, decode par .host [c] = .ok i) ∧
    (16 ≤ c.toNat ∧ c.toNat < 32 → ∃ i, decode par .host [c, v] = .ok i) ∧
    (c.toNat ∈ [0, 2, 3] → ∃ i, decode par .event [c] = .ok i) ∧
    (c.toNat = 1 → decode par .event (c :: operands) = .ok (.evEnqueue operands)) ∧
    (c.toNat = 4 ∧ v.toNat < 2 → decode par .event [c, v] = .ok (.evChipLevel (v.toNat == 1))) ∧
    (5 ≤ c.toNat ∧ c.toNat < 16 → decode par .event (c :: operands) = .error (.noSuchEvent c))

/-- A few words, one or two of each family. The codes are written out from R100 to R102 and the decode tables. That a
code stands in a byte with its operand bytes after it, that the list of `EV_ENQUEUE` is the rest of the packet, and that
the bit of `EV_CHIP_LEVEL` is a byte 0 or 1, is the model's choice (DESIGN CHOICE, log entry 6). -/
def Obligations.SampleWordsDecode : Prop :=
  decode .even .internal [0b00001111#8] = .ok (.intChipStatusRd 0b111#3) ∧
  decode .even .internal [0b01010001#8, 0x01#8] = .ok (.intQCmdWr 0b000#3 0x01#8) ∧
  decode .odd .internal [0b01010001#8, 0x01#8] = .ok (.intQDataWr 0b000#3 0x01#8) ∧
  decode .even .internal [0b00100001#8] = .ok .intHsGetH2d ∧
  decode .even .internal [0b01100011#8, 0x05#8] = .ok (.intHsCtrlWr 0x05#8) ∧
  decode .even .internal [0b00110110#8] = .ok (.intG3Rd 0b0110#4) ∧
  decode .even .host [0b00001101#8] = .ok (.hTsrRd 0b01#2) ∧
  decode .even .host [0b00010111#8, 0x34#8] = .ok (.hTimerWr 0b11#2 0x34#8) ∧
  decode .even .event [0b00000001#8, 0x90#8, 0x3C#8] = .ok (.evEnqueue [0x90#8, 0x3C#8]) ∧
  decode .even .event [0b00000100#8, 0x01#8] = .ok (.evChipLevel true)

/-- R103, R104: under the odd data parity the two rows of group 1 change places, and no other code is affected. -/
def Obligations.OddParitySwapsGroupOneOnly : Prop :=
  ∀ (c : Byte) (operands : List Byte) (i : Instr),
    (c.toNat / 16 % 4 = 1 →
      (decode .odd .internal (c :: operands) = .ok i ↔ decode .even .internal ((c ^^^ 1#8) :: operands) = .ok i)) ∧
    (c.toNat / 16 % 4 ≠ 1 → decode .odd .internal (c :: operands) = decode .even .internal (c :: operands)) ∧
    decode .odd .host (c :: operands) = decode .even .host (c :: operands) ∧
    decode .odd .event (c :: operands) = decode .even .event (c :: operands)

/-! ## The step and the buses -/

/-- The step is `exec` of the decoded instruction on the state less the item taken, and nothing is added around it: for
every item while the device is running, and for construction in a session not yet begun. -/
def Obligations.StepRunsDecodedInstruction : Prop :=
  ∀ (s : State) (c : Cycle) (rest : List Cycle) (f : Format) (bytes : List Byte) (i : Instr),
    (s.phase = .running ∨ s.phase = .unbuilt ∧ f = .event ∧ i = .evReset) →
    s.inbox = c :: rest → c.route s.cfg = .packet f bytes →
    decode s.cfg.qDataParity f bytes = .ok i →
    step s = exec i { s with inbox := rest }

/-- A word of spec/opcode_table.json placed by `withFetchWord` is the next instruction the step runs. The placing is
the model's convention (log entries 5 and 7): it puts the session into the phase in which the item can occur. The
table is written for the even queue parity. -/
def Obligations.FetchWordRunsTableInstruction : Prop :=
  ∀ (s : State) (nbits w : Nat) (i : Instr),
    s.cfg.qDataParity = .even → 6 ≤ s.cfg.intPortBits → decodeTableWord nbits w = some i →
    step (s.withFetchWord nbits w) =
      exec i { s with
        phase := if i = .evReset then .unbuilt else .running, cfg := { s.cfg with fwPresent := true } }

/-- R71, R103, D3: an internal port access runs the entry of the decode table at G = port[5:4], S = port[3:0],
whatever the bits above bit 5; a number wider than the bus is no port. -/
def Obligations.InternalPortsDecodeLowSixBits : Prop :=
  ∀ (s : State) (port : Nat) (v : Byte) (rest : List Cycle),
    s.phase = .running → s.cfg.fwPresent = true →
    (port < 2 ^ s.cfg.intPortBits →
      step { s with inbox := .intRead port :: rest } =
        exec (internalRead s.cfg.qDataParity (BitVec.ofNat 2 (port % 64 / 16)) (BitVec.ofNat 4 (port % 16)))
          { s with inbox := rest } ∧
      step { s with inbox := .intWrite port v :: rest } =
        exec (internalWrite s.cfg.qDataParity (BitVec.ofNat 2 (port % 64 / 16)) (BitVec.ofNat 4 (port % 16)) v)
          { s with inbox := rest }) ∧
    (2 ^ s.cfg.intPortBits ≤ port →
      step { s with inbox := .intRead port :: rest } = .fault (.noSuchPort port) ∧
      step { s with inbox := .intWrite port v :: rest } = .fault (.noSuchPort port))

/-- R72, R105, D25: a host access inside the window at `HOST_BASE` runs the host table's entry for its sub-address, with
or without firmware (R310, D28); one outside the window is not seen by the block. -/
def Obligations.HostWindowIsSixteenPorts : Prop :=
  ∀ (s : State) (addr : Nat) (v : Byte) (rest : List Cycle), s.phase = .running →
    (∀ k : Nat, k < 16 → addr = s.cfg.hostBase + k →
      step { s with inbox := .hostRead addr :: rest } = exec (hostRead (BitVec.ofNat 4 k)) { s with inbox := rest } ∧
      step { s with inbox := .hostWrite addr v :: rest } =
        exec (hostWrite (BitVec.ofNat 4 k) v) { s with inbox := rest }) ∧
    (addr < s.cfg.hostBase ∨ s.cfg.hostBase + 16 ≤ addr →
      step { s with inbox := .hostRead addr :: rest } = .next { s with inbox := rest } ∧
      step { s with inbox := .hostWrite addr v :: rest } = .next { s with inbox := rest })

/-- R380, D28: without a firmware image the embedded processor and the chip issue nothing (the model has no step for
what cannot occur), while the producer and the scheduler still act; the host side is in `HostWindowIsSixteenPorts`. -/
def Obligations.NoFirmwareSilencesEmbeddedSide : Prop :=
  ∀ (s : State) (port : Nat) (v : Byte) (operands : List Byte) (rest : List Cycle),
    s.phase = .running → s.cfg.fwPresent = false →
    step { s with inbox := .intRead port :: rest } = .fault .firmwareAbsent ∧
    step { s with inbox := .intWrite port v :: rest } = .fault .firmwareAbsent ∧
    step { s with inbox := .intAck :: rest } = .fault .firmwareAbsent ∧
    step { s with inbox := .event 4#4 operands :: rest } = .fault .firmwareAbsent ∧
    step { s with inbox := .event 1#4 operands :: rest } = exec (.evEnqueue operands) { s with inbox := rest } ∧
    step { s with inbox := .event 2#4 [] :: rest } = exec .evFireA { s with inbox := rest } ∧
    step { s with inbox := .event 3#4 [] :: rest } = exec .evFireB { s with inbox := rest }

/-- R403: teardown removes both timer events, and after it no transaction or event occurs. That teardown keeps the
channels and the queue is the model's inference (DEDUCED, log entry 12), and the fault's name the model's (log entry
11). -/
def Obligations.TeardownEndsTheSession : Prop :=
  (∀ (s : State) (rest : List Cycle), s.phase = .running →
    ∃ t, step { s with inbox := .teardown :: rest } = .next t ∧
      t.phase = .tornDown ∧ t.armedA = none ∧ t.armedB = none ∧ t.h2d = s.h2d ∧ t.d2h = s.d2h ∧ t.queue = s.queue) ∧
  (∀ s : State, s.phase = .tornDown → step s = .fault .deviceTornDown)

/-- R366, D29: the embedded processor's interrupt acknowledge has no effect on the block; it is only taken from the
inbox. And with nothing issued the block stays as it is (the model's choice, log entry 5). -/
def Obligations.AcknowledgeAndIdleChangeNothing : Prop :=
  (∀ (s : State) (rest : List Cycle), s.phase = .running → s.cfg.fwPresent = true →
    step { s with inbox := .intAck :: rest } = .next { s with inbox := rest }) ∧
  (∀ s : State, s.phase ≠ .tornDown → s.inbox = [] → step s = .next s)

/-- R119, R102: an event code from 0101 to 1111 has no step. -/
def Obligations.ReservedEventCodesHaveNoStep : Prop :=
  ∀ (s : State) (code : BitVec 4) (operands : List Byte) (rest : List Cycle),
    s.phase = .running → 5 ≤ code.toNat →
    step { s with inbox := .event code operands :: rest } =
      .refused (.noSuchTransaction (.noSuchEvent (code.setWidth 8)))

/-- R7: the parameters are arguments of the model: no step changes them. -/
def Obligations.ParametersNeverChange : Prop :=
  ∀ s t : State, step s = .next t → t.cfg = s.cfg

/-! ## Handshake channels -/

/-- R150: a put stores the value and sets ready, whatever the channel held; nothing else is written but the host
interrupt that the recomputation delivers. The host puts into H2D, the device into D2H. -/
def Obligations.PutStoresValueAndSetsReady : Prop :=
  ∀ (s : State) (b : Byte),
    CompletesAs (.hPutH2d b) s
      { s with h2d := { value := b, ready := true, rxEn := s.h2d.rxEn, txEn := s.h2d.txEn } } ∧
    CompletesAs (.intHsPutD2h b) s
      { s with d2h := { value := b, ready := true, rxEn := s.d2h.rxEn, txEn := s.d2h.txEn } }

/-- R151: a get returns the stored value, ready or not, and clears ready. -/
def Obligations.GetReturnsValueAndClearsReady : Prop :=
  ∀ s : State,
    CompletesAs .intHsGetH2d s
      { s with
        h2d := { value := s.h2d.value, ready := false, rxEn := s.h2d.rxEn, txEn := s.h2d.txEn }
        out := { s.out with intReads := s.out.intReads ++ [s.h2d.value] } } ∧
    CompletesAs .hGetD2h s
      { s with
        d2h := { value := s.d2h.value, ready := false, rxEn := s.d2h.rxEn, txEn := s.d2h.txEn }
        out := { s.out with hostReads := s.out.hostReads ++ [s.d2h.value] } }

/-- R152: a peek returns the value and has no side effect: nothing but the byte returned differs. -/
def Obligations.PeekHasNoSideEffect : Prop :=
  ∀ s : State, s.hostIrqLevel = s.hostActive →
    exec .hPeekH2d s = .next { s with out := { s.out with hostReads := s.out.hostReads ++ [s.h2d.value] } } ∧
    exec .intHsPeekD2h s = .next { s with out := { s.out with intReads := s.out.intReads ++ [s.d2h.value] } }

/-- R276, R107, R108, D13: the internal control word writes the one flag its select names, with the boolean it
carries, the other bits ignored; any other select writes no flag. -/
def Obligations.DeviceControlWordWritesSelectedFlag : Prop :=
  ∀ (s : State) (v : Byte), s.cfg.Wf →
    let val := decide (v.toNat / 2 ^ s.cfg.cwValBit.val % 2 = 1)
    let sel := v.toNat / 2 ^ s.cfg.cwSelLsb.val % 8
    (sel = s.cfg.hsPos.h2dRxEn.val →
      CompletesAs (.intHsCtrlWr v) s { s with h2d := { s.h2d with rxEn := val } }) ∧
    (sel = s.cfg.hsPos.d2hTxEn.val →
      CompletesAs (.intHsCtrlWr v) s { s with d2h := { s.d2h with txEn := val } }) ∧
    (sel = s.cfg.hsPos.extra.val → CompletesAs (.intHsCtrlWr v) s { s with extra := val }) ∧
    (sel ≠ s.cfg.hsPos.h2dRxEn.val → sel ≠ s.cfg.hsPos.d2hTxEn.val → sel ≠ s.cfg.hsPos.extra.val →
      CompletesAs (.intHsCtrlWr v) s
        { s with out := { s.out with diags := s.out.diags ++ [.unselectedControlBit v] } })

/-- R322, R107, R109, D13, D14: the host control word, the same selects with the enables of the other channel; the
extra-flag is not in its reach. -/
def Obligations.HostControlWordWritesSelectedFlag : Prop :=
  ∀ (s : State) (v : Byte), s.cfg.Wf →
    let val := decide (v.toNat / 2 ^ s.cfg.cwValBit.val % 2 = 1)
    let sel := v.toNat / 2 ^ s.cfg.cwSelLsb.val % 8
    (sel = s.cfg.hsPos.h2dRxEn.val →
      CompletesAs (.hCtrlWr v) s { s with d2h := { s.d2h with rxEn := val } }) ∧
    (sel = s.cfg.hsPos.d2hTxEn.val →
      CompletesAs (.hCtrlWr v) s { s with h2d := { s.h2d with txEn := val } }) ∧
    (sel ≠ s.cfg.hsPos.h2dRxEn.val → sel ≠ s.cfg.hsPos.d2hTxEn.val →
      CompletesAs (.hCtrlWr v) s
        { s with out := { s.out with diags := s.out.diags ++ [.unselectedControlBit v] } })

/-- R155: after any sequence of puts, gets and peeks on a channel that starts empty, ready holds exactly if the last
put has had no get after it; and every get that follows a put with no put between them returns what was put. -/
def Obligations.ChannelSequenceLaw : Prop :=
  ∀ (c : Chan) (s : State) (ops : List ChannelOp), (s.chan c).ready = false →
    (∃ t, execAll (ops.map (ChannelOp.instr c)) s = .next t ∧
      ((t.chan c).ready = true ↔
        ∃ (before after : List ChannelOp) (x : Byte), ops = before ++ .put x :: after ∧
          ∀ op ∈ after, op = .peek)) ∧
    (∀ (before between : List ChannelOp) (x : Byte), ops = before ++ .put x :: between ++ [.get] →
      (∀ op ∈ between, ∀ y, op ≠ .put y) →
      ∃ t, execAll (ops.map (ChannelOp.instr c)) s = .next t ∧ (t.readsOf c).getLast? = some x)

/-- R156: no primitive on one channel writes or reads a field of the other. -/
def Obligations.ChannelsAreIndependent : Prop :=
  ∀ (s : State) (c d : Chan) (x : Channel) (b : Byte) (e : Bool), c ≠ d →
    ((s.put c b).chan d = s.chan d ∧ (s.get c).2.chan d = s.chan d ∧
      (s.setRxInterruptEnabled c e).chan d = s.chan d ∧ (s.setTxInterruptEnabled c e).chan d = s.chan d) ∧
    (((s.setChan d x).put c b).chan c = (s.put c b).chan c ∧
      ((s.setChan d x).get c).1 = (s.get c).1 ∧ ((s.setChan d x).get c).2.chan c = (s.get c).2.chan c ∧
      (s.setChan d x).peek c = s.peek c ∧
      ((s.setChan d x).setRxInterruptEnabled c e).chan c = (s.setRxInterruptEnabled c e).chan c ∧
      ((s.setChan d x).setTxInterruptEnabled c e).chan c = (s.setTxInterruptEnabled c e).chan c)

/-- R35: each enable flag has exactly one side of the link that can write it. -/
def Obligations.EnableFlagsHaveOneWriter : Prop :=
  ∀ (i : Instr) (s t : State), exec i s = .next t → i ≠ .evReset →
    ((t.h2d.rxEn ≠ s.h2d.rxEn ∨ t.d2h.txEn ≠ s.d2h.txEn) → ∃ v, i = .intHsCtrlWr v) ∧
    ((t.d2h.rxEn ≠ s.d2h.rxEn ∨ t.h2d.txEn ≠ s.h2d.txEn) → ∃ v, i = .hCtrlWr v)

/-- R34: a put sets ready and nothing else does, a get clears it and nothing else but construction does (so a peek
never changes it), and construction makes it false. -/
def Obligations.ReadySetByPutClearedByGet : Prop :=
  ∀ (i : Instr) (s t : State), exec i s = .next t →
    (∀ b, i = .hPutH2d b → t.h2d.ready = true) ∧ (∀ b, i = .intHsPutD2h b → t.d2h.ready = true) ∧
    (i = .intHsGetH2d → t.h2d.ready = false) ∧ (i = .hGetD2h → t.d2h.ready = false) ∧
    (s.h2d.ready = false → t.h2d.ready = true → ∃ b, i = .hPutH2d b) ∧
    (s.d2h.ready = false → t.d2h.ready = true → ∃ b, i = .intHsPutD2h b) ∧
    (s.h2d.ready = true → t.h2d.ready = false → i = .intHsGetH2d ∨ i = .evReset) ∧
    (s.d2h.ready = true → t.d2h.ready = false → i = .hGetD2h ∨ i = .evReset) ∧
    (i = .evReset → t.h2d.ready = false ∧ t.d2h.ready = false)

/-! ## Status bytes -/

/-- R110, R273, D11: the device view shows each field at its position, and `HS_FREE` elsewhere. -/
def Obligations.DeviceStatusByteFields : Prop :=
  ∀ s : State, s.cfg.Wf → ∃ b : Byte, ReadsInternal .intHsStatusRd s b ∧
    b.getLsbD s.cfg.hsPos.extra = s.extra ∧
    b.getLsbD s.cfg.hsPos.h2dReady = s.h2d.ready ∧
    b.getLsbD s.cfg.hsPos.h2dRxInt = (s.h2d.ready && s.h2d.rxEn) ∧
    b.getLsbD s.cfg.hsPos.d2hNReady = !s.d2h.ready ∧
    b.getLsbD s.cfg.hsPos.d2hTxInt = (!s.d2h.ready && s.d2h.txEn) ∧
    b.getLsbD s.cfg.hsPos.h2dRxEn = s.h2d.rxEn ∧
    b.getLsbD s.cfg.hsPos.d2hTxEn = s.d2h.txEn ∧
    ∀ k : Fin 8, k ∉ s.cfg.hsPos.toList → b.getLsbD k = s.cfg.hsFree

/-- R111, R315, D12: the host view has the same positions with the channels exchanged and no bit inverted. -/
def Obligations.HostStatusByteFields : Prop :=
  ∀ s : State, s.cfg.Wf → ∃ b : Byte, ReadsHost .hStatusRd s b ∧
    b.getLsbD s.cfg.hsPos.extra = s.extra ∧
    b.getLsbD s.cfg.hsPos.h2dReady = s.d2h.ready ∧
    b.getLsbD s.cfg.hsPos.h2dRxInt = (s.d2h.ready && s.d2h.rxEn) ∧
    b.getLsbD s.cfg.hsPos.d2hNReady = !s.h2d.ready ∧
    b.getLsbD s.cfg.hsPos.d2hTxInt = (!s.h2d.ready && s.h2d.txEn) ∧
    b.getLsbD s.cfg.hsPos.h2dRxEn = s.d2h.rxEn ∧
    b.getLsbD s.cfg.hsPos.d2hTxEn = s.h2d.txEn ∧
    ∀ k : Fin 8, k ∉ s.cfg.hsPos.toList → b.getLsbD k = s.cfg.hsFree

/-- R116, R268, R182, D9: the queue status byte. -/
def Obligations.QueueStatusByteFields : Prop :=
  ∀ (s : State) (sss : BitVec 3), s.cfg.Wf → ∃ b : Byte, ReadsInternal (.intQStatusRd sss) s b ∧
    b.getLsbD s.cfg.qStatPos.notEmpty = decide (s.queue.length > 0) ∧
    b.getLsbD s.cfg.qStatPos.notFull = decide (s.queue.length < 64) ∧
    b.getLsbD s.cfg.qStatPos.qIrq = (s.queueMode.getLsbD 0 && !s.tcr.getLsbD 4) ∧
    ∀ k : Fin 8, k ∉ s.cfg.qStatPos.toList → b.getLsbD k = s.cfg.qStatFree.getLsbD k

/-- R114, R319, D20, D21: TSR. Reading it clears nothing. -/
def Obligations.TsrByteFields : Prop :=
  ∀ (s : State) (ss : BitVec 2), ∃ b : Byte, ReadsHost (.hTsrRd ss) s b ∧
    b.getLsbD 7 = ((!s.h2d.ready && s.h2d.txEn) || (s.d2h.ready && s.d2h.rxEn)) ∧
    b.extractLsb' 2 5 = 0b11111#5 ∧
    b.getLsbD 1 = s.pending.b ∧
    b.getLsbD 0 = s.pending.a

/-! ## ByteQueue -/

/-- R180: as many bytes as fit in the remaining capacity of 64 are appended, and the overflow is silently dropped. -/
def Obligations.EnqueueAppendsWhatFits : Prop :=
  ∀ (s : State) (bytes : List Byte),
    CompletesAs (.evEnqueue bytes) s
      { s with queue := s.queue ++ bytes.take (min bytes.length (64 - s.queue.length)) }

/-- R267, R181: a data read removes and returns the oldest byte. From an empty queue it changes nothing of the queue
and returns some byte, of which nothing is said (D7; the model's draw, log entry 1). -/
def Obligations.QueueReadReturnsOldest : Prop :=
  ∀ (s : State) (sss : BitVec 3),
    (∀ (b : Byte) (rest : List Byte), s.queue = b :: rest →
      CompletesAs (.intQDataRd sss) s
        { s with queue := rest, out := { s.out with intReads := s.out.intReads ++ [b] } }) ∧
    (s.queue = [] → ∃ (b : Byte) (n : Nat),
      CompletesAs (.intQDataRd sss) s
        { s with draws := n, out := { s.out with intReads := s.out.intReads ++ [b] } })

/-- R269, D8: a write to the queue data port, for each value of `Q_DATA_WRITE`. -/
def Obligations.QueueDataWriteFollowsParameter : Prop :=
  ∀ (s : State) (sss : BitVec 3) (v : Byte),
    (s.cfg.qDataWrite = .ignore →
      CompletesAs (.intQDataWr sss v) s
        { s with out := { s.out with diags := s.out.diags ++ [.queueDataWrite v] } }) ∧
    (s.cfg.qDataWrite = .enqueue →
      CompletesAs (.intQDataWr sss v) s
        { s with queue := if s.queue.length < 64 then s.queue ++ [v] else s.queue })

/-- R184, R270: the command register takes the whole byte. -/
def Obligations.QueueCommandStoresMode : Prop :=
  ∀ (s : State) (sss : BitVec 3) (v : Byte), CompletesAs (.intQCmdWr sss v) s { s with queueMode := v }

/-- R183: the queue interrupt condition is queueMode bit 0 set and TCR bit 4 clear, whatever the queue holds. It is one
term of the embedded-processor interrupt and no part of the host's. -/
def Obligations.QueueInterruptCondition : Prop :=
  ∀ s : State,
    (s.qIrq = true ↔ (s.queueMode.toNat % 2 = 1 ∧ s.tcr.toNat / 16 % 2 = 0)) ∧
    (s.qIrq = true → s.cpuIrq = true) ∧
    ∀ (q : List Byte) (m : Byte), ({ s with queue := q, queueMode := m } : State).hostActive = s.hostActive

/-- R180, R181: what the producer submits to an empty queue comes out in order, the first 64 bytes of it. -/
def Obligations.QueueIsFirstInFirstOut : Prop :=
  ∀ (s : State) (sss : BitVec 3) (bytes : List Byte), s.queue = [] →
    ∃ t, execAll (.evEnqueue bytes :: List.replicate (min bytes.length 64) (.intQDataRd sss)) s = .next t ∧
      t.queue = [] ∧ t.out.intReads = s.out.intReads ++ bytes.take 64

/-! ## TimerPair -/

/-- R211, R212, R213, R112, R113, D15, D16, D19: a control word sets the selected channel's mode and loadState, keeps
its latch, and cancels its timer; `SC` = 3 only writes a diagnostic. -/
def Obligations.TimerControlWordProgramsChannel : Prop :=
  ∀ (s : State) (v : Byte),
    (v.toNat / 64 = 0 → CompletesAs (.hTimerWr 3#2 v) s
      { s with
        chA := programmed s.chA v, armedA := none
        out := { s.out with
          schedCalls := s.out.schedCalls ++ [.cancel .a], diags := modeDiags s.out.diags v } }) ∧
    (v.toNat / 64 = 1 → CompletesAs (.hTimerWr 3#2 v) s
      { s with
        chB1 := programmed s.chB1 v, armedB := none
        out := { s.out with
          schedCalls := s.out.schedCalls ++ [.cancel .b], diags := modeDiags s.out.diags v } }) ∧
    (v.toNat / 64 = 2 → CompletesAs (.hTimerWr 3#2 v) s
      { s with
        chB2 := programmed s.chB2 v, armedB := none
        out := { s.out with
          schedCalls := s.out.schedCalls ++ [.cancel .b], diags := modeDiags s.out.diags v } }) ∧
    (v.toNat / 64 = 3 → CompletesAs (.hTimerWr 3#2 v) s
      { s with out := { s.out with diags := s.out.diags ++ [.noTimerChannel v] } })

/-- R214, R215, R216, D16, D17: a data byte for channel A is merged into the latch and counted, and the byte that makes
loadState exactly 3 arms Timer A with the period 1000 / CLK_A · NA. -/
def Obligations.TimerADataWriteLoadsAndArms : Prop :=
  ∀ (s : State) (v : Byte), (s.chA.access = .lowThenHigh → 1 ≤ s.chA.loadState.val) →
    let ch := loaded s.chA v
    let p := 1000 / s.cfg.clkA * (latchCount ch : Rat)
    (s.chA.loadState.val = 2 → CompletesAs (.hTimerWr 0#2 v) s
      { s with
        chA := ch, armedA := some p
        out := { s.out with schedCalls := s.out.schedCalls ++ [.schedule .a p] } }) ∧
    (s.chA.loadState.val ≠ 2 → CompletesAs (.hTimerWr 0#2 v) s { s with chA := ch })

/-- R214, R215, R217, D16, D17: a data byte for either stage of Timer B; the byte that completes its load arms Timer B
with the period 1000 / CLK_B · N1 · N2 if the other stage has completed its own, and otherwise arms nothing. -/
def Obligations.TimerBDataWriteLoadsAndArms : Prop :=
  ∀ (s : State) (v : Byte),
    ((s.chB1.access = .lowThenHigh → 1 ≤ s.chB1.loadState.val) →
      let ch := loaded s.chB1 v
      let p := 1000 / s.cfg.clkB * (latchCount ch : Rat) * (latchCount s.chB2 : Rat)
      (s.chB1.loadState.val = 2 ∧ 3 ≤ s.chB2.loadState.val → CompletesAs (.hTimerWr 1#2 v) s
        { s with
          chB1 := ch, armedB := some p
          out := { s.out with schedCalls := s.out.schedCalls ++ [.schedule .b p] } }) ∧
      (s.chB1.loadState.val ≠ 2 ∨ s.chB2.loadState.val < 3 →
        CompletesAs (.hTimerWr 1#2 v) s { s with chB1 := ch })) ∧
    ((s.chB2.access = .lowThenHigh → 1 ≤ s.chB2.loadState.val) →
      let ch := loaded s.chB2 v
      let p := 1000 / s.cfg.clkB * (latchCount s.chB1 : Rat) * (latchCount ch : Rat)
      (s.chB2.loadState.val = 2 ∧ 3 ≤ s.chB1.loadState.val → CompletesAs (.hTimerWr 2#2 v) s
        { s with
          chB2 := ch, armedB := some p
          out := { s.out with schedCalls := s.out.schedCalls ++ [.schedule .b p] } }) ∧
      (s.chB2.loadState.val ≠ 2 ∨ s.chB1.loadState.val < 3 →
        CompletesAs (.hTimerWr 2#2 v) s { s with chB2 := ch }))

/-- R75, L1.3: a `LowThenHigh` control word for A and two data bytes leave the latch at high·256 + low, whatever it
held, and arm Timer A, a latch of 0 standing for 0x10000. -/
def Obligations.TwoByteLoadArmsTimerA : Prop :=
  ∀ (s : State) (v low high : Byte), v.toNat / 16 = 3 →
    ∃ t, execAll [.hTimerWr 3#2 v, .hTimerWr 0#2 low, .hTimerWr 0#2 high] s = .next t ∧
      t.chA.latch.toNat = 256 * high.toNat + low.toNat ∧ t.chA.loadState.val = 3 ∧
      t.armedA = some (1000 / s.cfg.clkA *
        ((if low.toNat = 0 ∧ high.toNat = 0 then 65536 else 256 * high.toNat + low.toNat : Nat) : Rat))

/-- R409, L1.4, one sequence and its mirror image: with both stages programmed anew for low-then-high, two bytes to one
stage arm nothing, and two bytes to the other then arm Timer B with the product of both counts, whichever stage is
loaded first. That Timer B is armed only so is `armedB_loaded` of the invariant. -/
def Obligations.TimerBArmedByBothStages : Prop :=
  ∀ (s : State) (v1 v2 l1 h1 l2 h2 : Byte), v1.toNat / 16 = 7 → v2.toNat / 16 = 11 →
    let p := 1000 / s.cfg.clkB *
      ((if 256 * h1.toNat + l1.toNat = 0 then 65536 else 256 * h1.toNat + l1.toNat : Nat) : Rat) *
      ((if 256 * h2.toNat + l2.toNat = 0 then 65536 else 256 * h2.toNat + l2.toNat : Nat) : Rat)
    (∃ t u, execAll [.hTimerWr 3#2 v1, .hTimerWr 3#2 v2, .hTimerWr 1#2 l1, .hTimerWr 1#2 h1] s = .next t ∧
      t.armedB = none ∧
      execAll [.hTimerWr 2#2 l2, .hTimerWr 2#2 h2] t = .next u ∧ u.armedB = some p) ∧
    (∃ t u, execAll [.hTimerWr 3#2 v1, .hTimerWr 3#2 v2, .hTimerWr 2#2 l2, .hTimerWr 2#2 h2] s = .next t ∧
      t.armedB = none ∧
      execAll [.hTimerWr 1#2 l1, .hTimerWr 1#2 h1] t = .next u ∧ u.armedB = some p)

/-- R408, R214: once the load of a channel is complete, no number of further data bytes to it changes the armed period
of its timer or calls the scheduler. -/
def Obligations.LateDataBytesDoNotRearm : Prop :=
  ∀ (s : State) (vs : List Byte),
    (3 ≤ s.chA.loadState.val → ∃ t, execAll (vs.map (Instr.hTimerWr 0#2)) s = .next t ∧
      t.armedA = s.armedA ∧ 3 ≤ t.chA.loadState.val ∧ t.out.schedCalls = s.out.schedCalls) ∧
    (3 ≤ s.chB1.loadState.val → ∃ t, execAll (vs.map (Instr.hTimerWr 1#2)) s = .next t ∧
      t.armedB = s.armedB ∧ 3 ≤ t.chB1.loadState.val ∧ t.out.schedCalls = s.out.schedCalls) ∧
    (3 ≤ s.chB2.loadState.val → ∃ t, execAll (vs.map (Instr.hTimerWr 2#2)) s = .next t ∧
      t.armedB = s.armedB ∧ 3 ≤ t.chB2.loadState.val ∧ t.out.schedCalls = s.out.schedCalls)

/-- R221: a timer port reads 0x00, independent of the port and of any state, with no side effect. -/
def Obligations.TimerPortsReadZero : Prop :=
  ∀ (s : State) (p : BitVec 2), ReadsHost (.hTimerRd p) s 0x00#8

/-- R278, R279, D4: internal group 3 under each value of `G3_MAP`: unmapped, or the timer ports at `S & 3`. -/
def Obligations.GroupThreeFollowsMap : Prop :=
  ∀ (s : State) (sub : BitVec 4) (v : Byte),
    (s.cfg.g3Map = .unmapped →
      CompletesAs (.intG3Rd sub) s
        { s with out := { s.out with
          intReads := s.out.intReads ++ [0xFF#8]
          diags := s.out.diags ++ [.unmappedInternalRead (BitVec.ofNat 6 (48 + sub.toNat))] } } ∧
      CompletesAs (.intG3Wr sub v) s
        { s with out := { s.out with
          diags := s.out.diags ++ [.unmappedInternalWrite (BitVec.ofNat 6 (48 + sub.toNat)) v] } }) ∧
    (s.cfg.g3Map = .timerPorts →
      ReadsInternal (.intG3Rd sub) s 0x00#8 ∧
      (∃ t, exec (.intG3Wr sub v) s = .next t) ∧
      exec (.intG3Wr sub v) s = exec (.hTimerWr (BitVec.ofNat 2 (sub.toNat % 4)) v) s)

/-- R219, R220: a firing of an armed timer sets its pending bit if its TCR enable is set, and is lost otherwise; the
timer stays armed at its period. A firing is admitted only while its timer is armed. -/
def Obligations.FiringSetsPendingIfEnabled : Prop :=
  ∀ s : State,
    (s.armedA ≠ none → CompletesAs .evFireA s
      { s with pending := { a := if s.tcr.getLsbD 2 then true else s.pending.a, b := s.pending.b } }) ∧
    (s.armedB ≠ none → CompletesAs .evFireB s
      { s with pending := { a := s.pending.a, b := if s.tcr.getLsbD 3 then true else s.pending.b } }) ∧
    (s.armedA = none → ∀ t, exec .evFireA s ≠ .next t) ∧
    (s.armedB = none → ∀ t, exec .evFireB s ≠ .next t)

/-- R222, D27: a fire event of a timer that is not armed has no step; the fault's name is the model's (log entry 11). -/
def Obligations.UnarmedTimerHasNoFiring : Prop :=
  ∀ s : State, (s.armedA = none → exec .evFireA s = .fault (.timerNotArmed .a)) ∧
    (s.armedB = none → exec .evFireB s = .fault (.timerNotArmed .b))

/-! ## TCR and the two interrupt domains -/

/-- R324: the value is stored, and each pending bit whose enable the new value makes 0 is cleared. -/
def Obligations.TcrWriteStoresAndAcknowledges : Prop :=
  ∀ (s : State) (ss : BitVec 2) (v : Byte), CompletesAs (.hTcrWr ss v) s
    { s with
      tcr := v
      pending := {
        a := if v.toNat / 4 % 2 = 0 then false else s.pending.a
        b := if v.toNat / 8 % 2 = 0 then false else s.pending.b } }

/-- R363: `recomputeHostIrq` makes the level the active condition and emits that one edge on a transition, and does
nothing at all otherwise. -/
def Obligations.RecomputeDeliversEdges : Prop :=
  ∀ s : State,
    (s.hostIrqLevel ≠ s.hostActive → s.recomputeHostIrq =
      { s with
        hostIrqLevel := s.hostActive
        out := { s.out with irqEdges := s.out.irqEdges ++ [s.hostActive] } }) ∧
    (s.hostIrqLevel = s.hostActive → s.recomputeHostIrq = s)

/-- R363 and R10 (D2), over every instruction: afterwards the level is the active condition, and one edge was emitted
exactly if that differs from the level before; construction leaves the line low and emits no edge (R400, D22). -/
def Obligations.HostLineIsEdgeTriggered : Prop :=
  ∀ (i : Instr) (s t : State), exec i s = .next t →
    t.hostIrqLevel = t.hostActive ∧
    (i ≠ .evReset → t.out.irqEdges =
      s.out.irqEdges ++ (if t.hostActive = s.hostIrqLevel then [] else [t.hostActive])) ∧
    (i = .evReset → t.hostIrqLevel = false ∧ t.out.irqEdges = s.out.irqEdges)

/-- R362: the host active condition. -/
def Obligations.HostActiveCondition : Prop :=
  ∀ s : State, s.hostActive = true ↔
    ((s.pending.a = true ∨ s.pending.b = true ∨ (s.h2d.ready = false ∧ s.h2d.txEn = true) ∨
      (s.d2h.ready = true ∧ s.d2h.rxEn = true)) ∧ s.tcr.toNat / 64 = 3)

/-- R361: the embedded-processor interrupt is the OR of its four sources, with no gate but `QINH` in the last. -/
def Obligations.EmbeddedInterruptCondition : Prop :=
  ∀ s : State, s.cpuIrq = true ↔
    (s.chipIrq = true ∨ (s.h2d.ready = true ∧ s.h2d.rxEn = true) ∨
      (s.d2h.ready = false ∧ s.d2h.txEn = true) ∨ s.qIrq = true)

/-- R381: the chip's level is held, and it does not reach the host domain. -/
def Obligations.ChipLevelIsHeld : Prop :=
  ∀ (s : State) (lvl : Bool), CompletesAs (.evChipLevel lvl) s { s with chipIrq := lvl } ∧
    ({ s with chipIrq := lvl } : State).hostActive = s.hostActive

/-! ## Chip port and unmapped space -/

/-- R263, R265, R266, R262: group 0 forwards a write to the chip whole, and reads the chip's status, a byte of which
nothing is said (D35; the model's draw, log entry 1), changing nothing of the block. -/
def Obligations.ChipPortForwards : Prop :=
  ∀ (s : State) (sss : BitVec 3) (v : Byte),
    CompletesAs (.intChipAddrWr sss v) s
      { s with out := { s.out with chipCalls := s.out.chipCalls ++ [.writeAddr v] } } ∧
    CompletesAs (.intChipDataWr sss v) s
      { s with out := { s.out with chipCalls := s.out.chipCalls ++ [.writeData v] } } ∧
    ∃ (b : Byte) (n : Nat), CompletesAs (.intChipStatusRd sss) s
      { s with
        draws := n
        out := { s.out with chipCalls := s.out.chipCalls ++ [.status], intReads := s.out.intReads ++ [b] } }

/-- R261, R280, R264, R274, R277, D5: unmapped internal sub-addresses return all ones on read and ignore a write; each
leaves a diagnostic. -/
def Obligations.UnmappedInternalPorts : Prop :=
  ∀ (s : State) (sss : BitVec 3) (sub : BitVec 4) (v : Byte),
    CompletesAs (.intChipRdEven sss) s
      { s with out := { s.out with
        intReads := s.out.intReads ++ [0xFF#8]
        diags := s.out.diags ++ [.unmappedInternalRead (BitVec.ofNat 6 (2 * sss.toNat))] } } ∧
    CompletesAs (.intHsRdUnmapped sub) s
      { s with out := { s.out with
        intReads := s.out.intReads ++ [0xFF#8]
        diags := s.out.diags ++ [.unmappedInternalRead (BitVec.ofNat 6 (32 + sub.toNat))] } } ∧
    CompletesAs (.intHsWrUnmapped sub v) s
      { s with out := { s.out with
        diags := s.out.diags ++ [.unmappedInternalWrite (BitVec.ofNat 6 (32 + sub.toNat)) v] } }

/-- R311, R312, R316, R318, R320, R325: unmapped host sub-addresses return all ones on read and ignore a write; each
leaves a diagnostic. So TCR cannot be read back, and writing TSR clears nothing. -/
def Obligations.UnmappedHostPorts : Prop :=
  ∀ (s : State) (b : BitVec 1) (ss : BitVec 2) (v : Byte),
    CompletesAs .hRd3 s
      { s with out := { s.out with
        hostReads := s.out.hostReads ++ [0xFF#8], diags := s.out.diags ++ [.unmappedHostRead 3#4] } } ∧
    CompletesAs (.hRdTcrSpace ss) s
      { s with out := { s.out with
        hostReads := s.out.hostReads ++ [0xFF#8]
        diags := s.out.diags ++ [.unmappedHostRead (BitVec.ofNat 4 (8 + ss.toNat))] } } ∧
    CompletesAs (.hWr02 b v) s
      { s with out := { s.out with
        diags := s.out.diags ++ [.unmappedHostWrite (BitVec.ofNat 4 (2 * b.toNat)) v] } } ∧
    CompletesAs (.hWrTsrSpace ss v) s
      { s with out := { s.out with
        diags := s.out.diags ++ [.unmappedHostWrite (BitVec.ofNat 4 (12 + ss.toNat)) v] } }

/-! ## Construction -/

/-- R400, R401: `EV_RESET`, the first event of a session, sets every field of the block to the value of the table, and
emits no `HostIrq`. All but "timers idle" are the spec's own choice (D22). The parameters, the items still to come, the
outputs and the draw counter are the model's own and stay, but for the report of a missing firmware image (R371, as
recorded by log entry 8). -/
def Obligations.ConstructionSetsResetValues : Prop :=
  ∀ s : State, s.phase = .unbuilt → ∃ t, exec .evReset s = .next t ∧
    t.h2d = { value := 0x00#8, ready := false, rxEn := false, txEn := false } ∧
    t.d2h = { value := 0x00#8, ready := false, rxEn := false, txEn := false } ∧
    t.extra = false ∧ t.chipIrq = false ∧ t.queue = [] ∧ t.queueMode = 0x00#8 ∧ t.tcr = 0x00#8 ∧
    t.pending = { a := false, b := false } ∧ t.hostIrqLevel = false ∧
    t.chA = { access := .latch, opMode := 0#4, latch := 0x0000#16, loadState := 0 } ∧
    t.chB1 = { access := .latch, opMode := 0#4, latch := 0x0000#16, loadState := 0 } ∧
    t.chB2 = { access := .latch, opMode := 0#4, latch := 0x0000#16, loadState := 0 } ∧
    t.armedA = none ∧ t.armedB = none ∧
    t.out = { s.out with diags := s.out.diags ++ (if s.cfg.fwPresent = true then [] else [.missingFirmware]) } ∧
    t.phase = .running ∧ t.cfg = s.cfg ∧ t.inbox = s.inbox ∧ t.draws = s.draws

/-- R400, D22: `EV_RESET` is the first event of every run and occurs exactly once. Before it nothing else has a step;
once the device is constructed it has none, whatever the state; and no step, of whatever kind, leads back to a session
not yet begun. It is what leads to the reset state. The faults' names are the model's (log entry 11). -/
def Obligations.ConstructionIsFirstAndOnce : Prop :=
  (∀ (s : State) (c : Cycle) (rest : List Cycle), s.phase = .unbuilt → s.inbox = c :: rest →
    (∀ operands, c ≠ .event 0#4 operands) → step s = .fault .notConstructed) ∧
  (∀ s : State, s.phase ≠ .unbuilt → exec .evReset s = .fault .alreadyConstructed) ∧
  (∀ s t : State, s.phase ≠ .unbuilt → step s = .next t → t.phase ≠ .unbuilt) ∧
  exec .evReset State.unbuilt = .next State.reset

/-- R402 (from the reset values of D22): after reset both interrupt outputs are low, TSR reads 0x7C, and the timers
are idle. -/
def Obligations.OutputsLowAfterReset : Prop :=
  State.reset.cpuIrq = false ∧ State.reset.hostActive = false ∧ State.reset.hostIrqLevel = false ∧
    State.reset.tsr = 0x7C#8 ∧ State.reset.armedA = none ∧ State.reset.armedB = none

/-! ## Invariants and whole-machine rules -/

/-- The invariant holds right after reset. -/
def Obligations.ResetStateIsSafe : Prop := State.reset.Inv

/-- R38, R42, R215, R218, R365, R409: from every safe state, whatever is in the inbox, a step that answers a next state
answers a safe one. -/
def Obligations.StepKeepsInvariant : Prop :=
  ∀ s t : State, s.Inv → step s = .next t → t.Inv

/-- R326: no host transaction reaches the chip or the ByteQueue, or writes the extra-flag or a device-side enable. -/
def Obligations.HostReachesNeitherChipNorQueue : Prop :=
  ∀ (i : Instr) (s t : State), i.format = .host → exec i s = .next t →
    t.queue = s.queue ∧ t.queueMode = s.queueMode ∧ t.chipIrq = s.chipIrq ∧ t.out.chipCalls = s.out.chipCalls ∧
    t.extra = s.extra ∧ t.h2d.rxEn = s.h2d.rxEn ∧ t.d2h.txEn = s.d2h.txEn

/-- R326 as isolation: what a host transaction returns, and all it does to the rest of the block, is the same whatever
the queue, its command register and the chip's level hold. -/
def Obligations.QueueAndChipDoNotReachHost : Prop :=
  ∀ (i : Instr) (s t : State) (q : List Byte) (m : Byte) (l : Bool), i.format = .host → exec i s = .next t →
    exec i { s with queue := q, queueMode := m, chipIrq := l } =
      .next { t with queue := q, queueMode := m, chipIrq := l }

/-- R374: no internal transaction writes TCR, a pending bit or a host-side enable, or takes a byte from the host's
side; and the timers are in its reach only where `G3_MAP` is `TimerPorts` (D4). -/
def Obligations.InternalBusReachesNoHostRegister : Prop :=
  ∀ (i : Instr) (s t : State), i.format = .internal → exec i s = .next t →
    t.tcr = s.tcr ∧ t.pending = s.pending ∧ t.d2h.rxEn = s.d2h.rxEn ∧ t.h2d.txEn = s.h2d.txEn ∧
    t.h2d.value = s.h2d.value ∧ t.out.hostReads = s.out.hostReads ∧
    (s.cfg.g3Map = .unmapped → t.chA = s.chA ∧ t.chB1 = s.chB1 ∧ t.chB2 = s.chB2 ∧
      t.armedA = s.armedA ∧ t.armedB = s.armedB)
end

