-- ==== Sys2Proof/Laws/Decode.lean ====
section
/-! SUPPORT. The fields of the code bytes, and the decoder of each format as one equation per direction. -/

namespace Sys2Proof

/-- The fields R100 puts into a format I code are the ones read from it. -/
theorem internalCode_fields : ∀ (w : BitVec 1) (g : BitVec 2) (sub : BitVec 4),
    (internalCode w g sub).getLsbD 7 = false ∧ (internalCode w g sub).getLsbD 6 = (w == 1#1) ∧
      (internalCode w g sub).extractLsb' 4 2 = g ∧ (internalCode w g sub).extractLsb' 0 4 = sub := by
  decide

/-- The fields R101 puts into a format H code are the ones read from it. -/
theorem hostCode_fields : ∀ (w : BitVec 1) (sub : BitVec 4),
    (hostCode w sub).extractLsb' 5 3 = 0#3 ∧ (hostCode w sub).getLsbD 4 = (w == 1#1) ∧
      (hostCode w sub).extractLsb' 0 4 = sub := by
  decide

/-- A byte with bit 7 clear is a format I code. -/
theorem eq_internalCode : ∀ c : Byte, c.getLsbD 7 = false →
    c = internalCode (BitVec.ofBool (c.getLsbD 6)) (c.extractLsb' 4 2) (c.extractLsb' 0 4) := by
  decide

/-- A byte with bits 7:5 clear is a format H code. -/
theorem eq_hostCode : ∀ c : Byte, c.extractLsb' 5 3 = 0#3 →
    c = hostCode (BitVec.ofBool (c.getLsbD 4)) (c.extractLsb' 0 4) := by
  decide

theorem decode_internalRead (par : Parity) (g : BitVec 2) (sub : BitVec 4) :
    decode par .internal [internalCode 0#1 g sub] = .ok (internalRead par g sub) := by
  obtain ⟨h7, h6, hg, hs⟩ := internalCode_fields 0#1 g sub
  simp only [decode, decodeInternal, h7, h6, hg, hs]
  rfl

theorem decode_internalWrite (par : Parity) (g : BitVec 2) (sub : BitVec 4) (v : Byte) :
    decode par .internal [internalCode 1#1 g sub, v] = .ok (internalWrite par g sub v) := by
  obtain ⟨h7, h6, hg, hs⟩ := internalCode_fields 1#1 g sub
  simp only [decode, decodeInternal, h7, h6, hg, hs]
  rfl

theorem decode_hostRead (par : Parity) (sub : BitVec 4) :
    decode par .host [hostCode 0#1 sub] = .ok (hostRead sub) := by
  obtain ⟨h5, h4, hs⟩ := hostCode_fields 0#1 sub
  simp only [decode, decodeHost, h5, h4, hs]
  rfl

theorem decode_hostWrite (par : Parity) (sub : BitVec 4) (v : Byte) :
    decode par .host [hostCode 1#1 sub, v] = .ok (hostWrite sub v) := by
  obtain ⟨h5, h4, hs⟩ := hostCode_fields 1#1 sub
  simp only [decode, decodeHost, h5, h4, hs]
  rfl

/-- What the internal decoder accepts: a code with no data that is a read, or one data byte that is a write. -/
theorem decodeInternal_eq_ok {par : Parity} {c : Byte} {operands : List Byte} {i : Instr}
    (h : decodeInternal par c operands = .ok i) :
    ∃ (g : BitVec 2) (sub : BitVec 4),
      (c = internalCode 0#1 g sub ∧ operands = [] ∧ i = internalRead par g sub) ∨
      (∃ v, c = internalCode 1#1 g sub ∧ operands = [v] ∧ i = internalWrite par g sub v) := by
  refine ⟨c.extractLsb' 4 2, c.extractLsb' 0 4, ?_⟩
  unfold decodeInternal at h
  split at h
  · exact absurd h (by simp)
  next h7 =>
    have hc := eq_internalCode c (Bool.not_eq_true _ ▸ h7)
    split at h
    next h6 =>
      split at h
      next v => exact .inr ⟨v, by rw [h6] at hc; exact hc, rfl, (Except.ok.inj h).symm⟩
      next => exact absurd h (by simp)
    next h6 =>
      split at h
      next => exact .inl ⟨by rw [Bool.not_eq_true] at h6; rw [h6] at hc; exact hc, rfl, (Except.ok.inj h).symm⟩
      next => exact absurd h (by simp)

/-- What the host decoder accepts. -/
theorem decodeHost_eq_ok {c : Byte} {operands : List Byte} {i : Instr}
    (h : decodeHost c operands = .ok i) :
    ∃ sub : BitVec 4,
      (c = hostCode 0#1 sub ∧ operands = [] ∧ i = hostRead sub) ∨
      (∃ v, c = hostCode 1#1 sub ∧ operands = [v] ∧ i = hostWrite sub v) := by
  refine ⟨c.extractLsb' 0 4, ?_⟩
  unfold decodeHost at h
  split at h
  · exact absurd h (by simp)
  next h5 =>
    have hc := eq_hostCode c (not_not.mp h5)
    split at h
    next h4 =>
      split at h
      next v => exact .inr ⟨v, by rw [h4] at hc; exact hc, rfl, (Except.ok.inj h).symm⟩
      next => exact absurd h (by simp)
    next h4 =>
      split at h
      next => exact .inl ⟨by rw [Bool.not_eq_true] at h4; rw [h4] at hc; exact hc, rfl, (Except.ok.inj h).symm⟩
      next => exact absurd h (by simp)

end Sys2Proof
end

