-- ==== Sys2Proof/Laws/State.lean ====
section
/-! SUPPORT. One lemma per field per named update of the state, and the read-after-write laws of the indexed updates. -/

namespace Sys2Proof.Machine

/-! ## The indexed reads -/

@[simp] theorem State.chan_h2d (s : State) : s.chan .h2d = s.h2d := rfl
@[simp] theorem State.chan_d2h (s : State) : s.chan .d2h = s.d2h := rfl
@[simp] theorem State.timer_a (s : State) : s.timer .a = s.chA := rfl
@[simp] theorem State.timer_b1 (s : State) : s.timer .b1 = s.chB1 := rfl
@[simp] theorem State.timer_b2 (s : State) : s.timer .b2 = s.chB2 := rfl
@[simp] theorem State.armed_a (s : State) : s.armed .a = s.armedA := rfl
@[simp] theorem State.armed_b (s : State) : s.armed .b = s.armedB := rfl

/-! ## withOut -/

@[simp] theorem State.withOut_h2d (s : State) (o : Outputs) : (s.withOut o).h2d = s.h2d := rfl
@[simp] theorem State.withOut_d2h (s : State) (o : Outputs) : (s.withOut o).d2h = s.d2h := rfl
@[simp] theorem State.withOut_extra (s : State) (o : Outputs) : (s.withOut o).extra = s.extra := rfl
@[simp] theorem State.withOut_chipIrq (s : State) (o : Outputs) : (s.withOut o).chipIrq = s.chipIrq := rfl
@[simp] theorem State.withOut_queue (s : State) (o : Outputs) : (s.withOut o).queue = s.queue := rfl
@[simp] theorem State.withOut_queueMode (s : State) (o : Outputs) : (s.withOut o).queueMode = s.queueMode := rfl
@[simp] theorem State.withOut_tcr (s : State) (o : Outputs) : (s.withOut o).tcr = s.tcr := rfl
@[simp] theorem State.withOut_pending (s : State) (o : Outputs) : (s.withOut o).pending = s.pending := rfl
@[simp] theorem State.withOut_hostIrqLevel (s : State) (o : Outputs) : (s.withOut o).hostIrqLevel = s.hostIrqLevel := rfl
@[simp] theorem State.withOut_chA (s : State) (o : Outputs) : (s.withOut o).chA = s.chA := rfl
@[simp] theorem State.withOut_chB1 (s : State) (o : Outputs) : (s.withOut o).chB1 = s.chB1 := rfl
@[simp] theorem State.withOut_chB2 (s : State) (o : Outputs) : (s.withOut o).chB2 = s.chB2 := rfl
@[simp] theorem State.withOut_armedA (s : State) (o : Outputs) : (s.withOut o).armedA = s.armedA := rfl
@[simp] theorem State.withOut_armedB (s : State) (o : Outputs) : (s.withOut o).armedB = s.armedB := rfl
@[simp] theorem State.withOut_cfg (s : State) (o : Outputs) : (s.withOut o).cfg = s.cfg := rfl
@[simp] theorem State.withOut_phase (s : State) (o : Outputs) : (s.withOut o).phase = s.phase := rfl
@[simp] theorem State.withOut_inbox (s : State) (o : Outputs) : (s.withOut o).inbox = s.inbox := rfl
@[simp] theorem State.withOut_draws (s : State) (o : Outputs) : (s.withOut o).draws = s.draws := rfl

@[simp] theorem State.withOut_out (s : State) (o : Outputs) : (s.withOut o).out = o := rfl

/-! ## setChan -/

@[simp] theorem State.setChan_extra (s : State) (c : Chan) (x : Channel) : (s.setChan c x).extra = s.extra := by cases c <;> rfl
@[simp] theorem State.setChan_chipIrq (s : State) (c : Chan) (x : Channel) : (s.setChan c x).chipIrq = s.chipIrq := by cases c <;> rfl
@[simp] theorem State.setChan_queue (s : State) (c : Chan) (x : Channel) : (s.setChan c x).queue = s.queue := by cases c <;> rfl
@[simp] theorem State.setChan_queueMode (s : State) (c : Chan) (x : Channel) : (s.setChan c x).queueMode = s.queueMode := by cases c <;> rfl
@[simp] theorem State.setChan_tcr (s : State) (c : Chan) (x : Channel) : (s.setChan c x).tcr = s.tcr := by cases c <;> rfl
@[simp] theorem State.setChan_pending (s : State) (c : Chan) (x : Channel) : (s.setChan c x).pending = s.pending := by cases c <;> rfl
@[simp] theorem State.setChan_hostIrqLevel (s : State) (c : Chan) (x : Channel) : (s.setChan c x).hostIrqLevel = s.hostIrqLevel := by cases c <;> rfl
@[simp] theorem State.setChan_chA (s : State) (c : Chan) (x : Channel) : (s.setChan c x).chA = s.chA := by cases c <;> rfl
@[simp] theorem State.setChan_chB1 (s : State) (c : Chan) (x : Channel) : (s.setChan c x).chB1 = s.chB1 := by cases c <;> rfl
@[simp] theorem State.setChan_chB2 (s : State) (c : Chan) (x : Channel) : (s.setChan c x).chB2 = s.chB2 := by cases c <;> rfl
@[simp] theorem State.setChan_armedA (s : State) (c : Chan) (x : Channel) : (s.setChan c x).armedA = s.armedA := by cases c <;> rfl
@[simp] theorem State.setChan_armedB (s : State) (c : Chan) (x : Channel) : (s.setChan c x).armedB = s.armedB := by cases c <;> rfl
@[simp] theorem State.setChan_cfg (s : State) (c : Chan) (x : Channel) : (s.setChan c x).cfg = s.cfg := by cases c <;> rfl
@[simp] theorem State.setChan_phase (s : State) (c : Chan) (x : Channel) : (s.setChan c x).phase = s.phase := by cases c <;> rfl
@[simp] theorem State.setChan_inbox (s : State) (c : Chan) (x : Channel) : (s.setChan c x).inbox = s.inbox := by cases c <;> rfl
@[simp] theorem State.setChan_out (s : State) (c : Chan) (x : Channel) : (s.setChan c x).out = s.out := by cases c <;> rfl
@[simp] theorem State.setChan_draws (s : State) (c : Chan) (x : Channel) : (s.setChan c x).draws = s.draws := by cases c <;> rfl

@[simp] theorem State.setChan_h2d_h2d (s : State) (x : Channel) : (s.setChan .h2d x).h2d = x := rfl
@[simp] theorem State.setChan_h2d_d2h (s : State) (x : Channel) : (s.setChan .h2d x).d2h = s.d2h := rfl
@[simp] theorem State.setChan_d2h_d2h (s : State) (x : Channel) : (s.setChan .d2h x).d2h = x := rfl
@[simp] theorem State.setChan_d2h_h2d (s : State) (x : Channel) : (s.setChan .d2h x).h2d = s.h2d := rfl
@[simp] theorem State.chan_setChan (s : State) (c : Chan) (x : Channel) : (s.setChan c x).chan c = x := by cases c <;> rfl
theorem State.chan_setChan_of_ne (s : State) {c d : Chan} (x : Channel) (h : c ≠ d) :
    (s.setChan c x).chan d = s.chan d := by
  cases c <;> cases d <;> first | rfl | exact absurd rfl h
@[simp] theorem State.chan_withOut (s : State) (o : Outputs) (c : Chan) : (s.withOut o).chan c = s.chan c := by
  cases c <;> rfl

/-! ## setTimer -/

@[simp] theorem State.setTimer_h2d (s : State) (c : ChannelId) (x : TimerChannel) : (s.setTimer c x).h2d = s.h2d := by cases c <;> rfl
@[simp] theorem State.setTimer_d2h (s : State) (c : ChannelId) (x : TimerChannel) : (s.setTimer c x).d2h = s.d2h := by cases c <;> rfl
@[simp] theorem State.setTimer_extra (s : State) (c : ChannelId) (x : TimerChannel) : (s.setTimer c x).extra = s.extra := by cases c <;> rfl
@[simp] theorem State.setTimer_chipIrq (s : State) (c : ChannelId) (x : TimerChannel) : (s.setTimer c x).chipIrq = s.chipIrq := by cases c <;> rfl
@[simp] theorem State.setTimer_queue (s : State) (c : ChannelId) (x : TimerChannel) : (s.setTimer c x).queue = s.queue := by cases c <;> rfl
@[simp] theorem State.setTimer_queueMode (s : State) (c : ChannelId) (x : TimerChannel) : (s.setTimer c x).queueMode = s.queueMode := by cases c <;> rfl
@[simp] theorem State.setTimer_tcr (s : State) (c : ChannelId) (x : TimerChannel) : (s.setTimer c x).tcr = s.tcr := by cases c <;> rfl
@[simp] theorem State.setTimer_pending (s : State) (c : ChannelId) (x : TimerChannel) : (s.setTimer c x).pending = s.pending := by cases c <;> rfl
@[simp] theorem State.setTimer_hostIrqLevel (s : State) (c : ChannelId) (x : TimerChannel) : (s.setTimer c x).hostIrqLevel = s.hostIrqLevel := by cases c <;> rfl
@[simp] theorem State.setTimer_armedA (s : State) (c : ChannelId) (x : TimerChannel) : (s.setTimer c x).armedA = s.armedA := by cases c <;> rfl
@[simp] theorem State.setTimer_armedB (s : State) (c : ChannelId) (x : TimerChannel) : (s.setTimer c x).armedB = s.armedB := by cases c <;> rfl
@[simp] theorem State.setTimer_cfg (s : State) (c : ChannelId) (x : TimerChannel) : (s.setTimer c x).cfg = s.cfg := by cases c <;> rfl
@[simp] theorem State.setTimer_phase (s : State) (c : ChannelId) (x : TimerChannel) : (s.setTimer c x).phase = s.phase := by cases c <;> rfl
@[simp] theorem State.setTimer_inbox (s : State) (c : ChannelId) (x : TimerChannel) : (s.setTimer c x).inbox = s.inbox := by cases c <;> rfl
@[simp] theorem State.setTimer_out (s : State) (c : ChannelId) (x : TimerChannel) : (s.setTimer c x).out = s.out := by cases c <;> rfl
@[simp] theorem State.setTimer_draws (s : State) (c : ChannelId) (x : TimerChannel) : (s.setTimer c x).draws = s.draws := by cases c <;> rfl

@[simp] theorem State.setTimer_a_chA (s : State) (x : TimerChannel) : (s.setTimer .a x).chA = x := rfl
@[simp] theorem State.setTimer_a_chB1 (s : State) (x : TimerChannel) : (s.setTimer .a x).chB1 = s.chB1 := rfl
@[simp] theorem State.setTimer_a_chB2 (s : State) (x : TimerChannel) : (s.setTimer .a x).chB2 = s.chB2 := rfl
@[simp] theorem State.setTimer_b1_chA (s : State) (x : TimerChannel) : (s.setTimer .b1 x).chA = s.chA := rfl
@[simp] theorem State.setTimer_b1_chB1 (s : State) (x : TimerChannel) : (s.setTimer .b1 x).chB1 = x := rfl
@[simp] theorem State.setTimer_b1_chB2 (s : State) (x : TimerChannel) : (s.setTimer .b1 x).chB2 = s.chB2 := rfl
@[simp] theorem State.setTimer_b2_chA (s : State) (x : TimerChannel) : (s.setTimer .b2 x).chA = s.chA := rfl
@[simp] theorem State.setTimer_b2_chB1 (s : State) (x : TimerChannel) : (s.setTimer .b2 x).chB1 = s.chB1 := rfl
@[simp] theorem State.setTimer_b2_chB2 (s : State) (x : TimerChannel) : (s.setTimer .b2 x).chB2 = x := rfl
@[simp] theorem State.timer_setTimer (s : State) (c : ChannelId) (x : TimerChannel) : (s.setTimer c x).timer c = x := by
  cases c <;> rfl
theorem State.timer_setTimer_of_ne (s : State) {c d : ChannelId} (x : TimerChannel) (h : c ≠ d) :
    (s.setTimer c x).timer d = s.timer d := by
  cases c <;> cases d <;> first | rfl | exact absurd rfl h

/-! ## setArmed -/

@[simp] theorem State.setArmed_h2d (s : State) (t : TimerId) (p : Option Rat) : (s.setArmed t p).h2d = s.h2d := by cases t <;> rfl
@[simp] theorem State.setArmed_d2h (s : State) (t : TimerId) (p : Option Rat) : (s.setArmed t p).d2h = s.d2h := by cases t <;> rfl
@[simp] theorem State.setArmed_extra (s : State) (t : TimerId) (p : Option Rat) : (s.setArmed t p).extra = s.extra := by cases t <;> rfl
@[simp] theorem State.setArmed_chipIrq (s : State) (t : TimerId) (p : Option Rat) : (s.setArmed t p).chipIrq = s.chipIrq := by cases t <;> rfl
@[simp] theorem State.setArmed_queue (s : State) (t : TimerId) (p : Option Rat) : (s.setArmed t p).queue = s.queue := by cases t <;> rfl
@[simp] theorem State.setArmed_queueMode (s : State) (t : TimerId) (p : Option Rat) : (s.setArmed t p).queueMode = s.queueMode := by cases t <;> rfl
@[simp] theorem State.setArmed_tcr (s : State) (t : TimerId) (p : Option Rat) : (s.setArmed t p).tcr = s.tcr := by cases t <;> rfl
@[simp] theorem State.setArmed_pending (s : State) (t : TimerId) (p : Option Rat) : (s.setArmed t p).pending = s.pending := by cases t <;> rfl
@[simp] theorem State.setArmed_hostIrqLevel (s : State) (t : TimerId) (p : Option Rat) : (s.setArmed t p).hostIrqLevel = s.hostIrqLevel := by cases t <;> rfl
@[simp] theorem State.setArmed_chA (s : State) (t : TimerId) (p : Option Rat) : (s.setArmed t p).chA = s.chA := by cases t <;> rfl
@[simp] theorem State.setArmed_chB1 (s : State) (t : TimerId) (p : Option Rat) : (s.setArmed t p).chB1 = s.chB1 := by cases t <;> rfl
@[simp] theorem State.setArmed_chB2 (s : State) (t : TimerId) (p : Option Rat) : (s.setArmed t p).chB2 = s.chB2 := by cases t <;> rfl
@[simp] theorem State.setArmed_cfg (s : State) (t : TimerId) (p : Option Rat) : (s.setArmed t p).cfg = s.cfg := by cases t <;> rfl
@[simp] theorem State.setArmed_phase (s : State) (t : TimerId) (p : Option Rat) : (s.setArmed t p).phase = s.phase := by cases t <;> rfl
@[simp] theorem State.setArmed_inbox (s : State) (t : TimerId) (p : Option Rat) : (s.setArmed t p).inbox = s.inbox := by cases t <;> rfl
@[simp] theorem State.setArmed_out (s : State) (t : TimerId) (p : Option Rat) : (s.setArmed t p).out = s.out := by cases t <;> rfl
@[simp] theorem State.setArmed_draws (s : State) (t : TimerId) (p : Option Rat) : (s.setArmed t p).draws = s.draws := by cases t <;> rfl

@[simp] theorem State.setArmed_a_armedA (s : State) (p : Option Rat) : (s.setArmed .a p).armedA = p := rfl
@[simp] theorem State.setArmed_a_armedB (s : State) (p : Option Rat) : (s.setArmed .a p).armedB = s.armedB := rfl
@[simp] theorem State.setArmed_b_armedA (s : State) (p : Option Rat) : (s.setArmed .b p).armedA = s.armedA := rfl
@[simp] theorem State.setArmed_b_armedB (s : State) (p : Option Rat) : (s.setArmed .b p).armedB = p := rfl
@[simp] theorem State.armed_setArmed (s : State) (t : TimerId) (p : Option Rat) : (s.setArmed t p).armed t = p := by
  cases t <;> rfl

/-! ## settled -/

@[simp] theorem settled_h2d (u : State) : (settled u).h2d = u.h2d := rfl
@[simp] theorem settled_d2h (u : State) : (settled u).d2h = u.d2h := rfl
@[simp] theorem settled_extra (u : State) : (settled u).extra = u.extra := rfl
@[simp] theorem settled_chipIrq (u : State) : (settled u).chipIrq = u.chipIrq := rfl
@[simp] theorem settled_queue (u : State) : (settled u).queue = u.queue := rfl
@[simp] theorem settled_queueMode (u : State) : (settled u).queueMode = u.queueMode := rfl
@[simp] theorem settled_tcr (u : State) : (settled u).tcr = u.tcr := rfl
@[simp] theorem settled_pending (u : State) : (settled u).pending = u.pending := rfl
@[simp] theorem settled_chA (u : State) : (settled u).chA = u.chA := rfl
@[simp] theorem settled_chB1 (u : State) : (settled u).chB1 = u.chB1 := rfl
@[simp] theorem settled_chB2 (u : State) : (settled u).chB2 = u.chB2 := rfl
@[simp] theorem settled_armedA (u : State) : (settled u).armedA = u.armedA := rfl
@[simp] theorem settled_armedB (u : State) : (settled u).armedB = u.armedB := rfl
@[simp] theorem settled_cfg (u : State) : (settled u).cfg = u.cfg := rfl
@[simp] theorem settled_phase (u : State) : (settled u).phase = u.phase := rfl
@[simp] theorem settled_inbox (u : State) : (settled u).inbox = u.inbox := rfl
@[simp] theorem settled_draws (u : State) : (settled u).draws = u.draws := rfl
@[simp] theorem settled_hostIrqLevel (u : State) : (settled u).hostIrqLevel = u.hostActive := rfl
@[simp] theorem settled_chan (u : State) (c : Chan) : (settled u).chan c = u.chan c := by cases c <;> rfl
@[simp] theorem settled_hostActive (u : State) : (settled u).hostActive = u.hostActive := rfl
@[simp] theorem settled_qIrq (u : State) : (settled u).qIrq = u.qIrq := rfl
@[simp] theorem settled_intReads (u : State) : (settled u).out.intReads = u.out.intReads := rfl
@[simp] theorem settled_hostReads (u : State) : (settled u).out.hostReads = u.out.hostReads := rfl
@[simp] theorem settled_chipCalls (u : State) : (settled u).out.chipCalls = u.out.chipCalls := rfl
@[simp] theorem settled_schedCalls (u : State) : (settled u).out.schedCalls = u.out.schedCalls := rfl
@[simp] theorem settled_diags (u : State) : (settled u).out.diags = u.out.diags := rfl
@[simp] theorem settled_irqEdges (u : State) : (settled u).out.irqEdges =
    u.out.irqEdges ++ (if u.hostActive = u.hostIrqLevel then [] else [u.hostActive]) := rfl

end Sys2Proof.Machine
end

