-- ==== Sys2Proof/Laws/Ops.lean ====
section
/-! SUPPORT. What each shared operation can do, said once: the provers cite these instead of unfolding. -/

namespace Sys2Proof.Machine

/-! ## Host interrupt delivery -/

/-- `recomputeHostIrq` is `settled`: level and edge, and nothing else. -/
theorem State.recomputeHostIrq_eq_settled (s : State) : s.recomputeHostIrq = settled s := by
  unfold State.recomputeHostIrq settled State.emitHostIrq State.withOut
  split
  · next h => simp [h]
  · rfl

/-- Recomputing a settled state emits nothing (R364). -/
theorem settled_eq_self {u : State} (h : u.hostIrqLevel = u.hostActive) : settled u = u := by
  unfold settled
  simp [← h]

@[simp] theorem settled_settled (u : State) : settled (settled u) = settled u :=
  settled_eq_self (by simp)

theorem complete_eq (s : State) : complete s = .next (settled s) := by
  rw [complete, State.recomputeHostIrq_eq_settled]

/-- A transaction whose rule already recomputed completes as if it had not (R364). -/
theorem complete_recomputeHostIrq (s : State) : complete s.recomputeHostIrq = .next (settled s) := by
  rw [complete_eq, State.recomputeHostIrq_eq_settled, settled_settled]

/-- Returning a byte after the recomputation is the same as before it. -/
theorem settled_returnInternal_settled (u : State) (v : Byte) :
    settled ((settled u).returnInternal v) = settled (u.returnInternal v) := by
  have h : ((settled u).returnInternal v).hostIrqLevel = ((settled u).returnInternal v).hostActive := rfl
  rw [settled_eq_self h]
  rfl

theorem settled_returnHost_settled (u : State) (v : Byte) :
    settled ((settled u).returnHost v) = settled (u.returnHost v) := by
  have h : ((settled u).returnHost v).hostIrqLevel = ((settled u).returnHost v).hostActive := rfl
  rw [settled_eq_self h]
  rfl

/-! ## HandshakeChannel primitives -/

theorem complete_put (s : State) (c : Chan) (b : Byte) :
    complete (s.put c b) = .next (settled (s.setChan c { s.chan c with value := b, ready := true })) :=
  complete_recomputeHostIrq _

theorem complete_setRx (s : State) (c : Chan) (e : Bool) :
    complete (s.setRxInterruptEnabled c e) = .next (settled (s.setChan c { s.chan c with rxEn := e })) :=
  complete_recomputeHostIrq _

theorem complete_setTx (s : State) (c : Chan) (e : Bool) :
    complete (s.setTxInterruptEnabled c e) = .next (settled (s.setChan c { s.chan c with txEn := e })) :=
  complete_recomputeHostIrq _

@[simp] theorem State.get_fst (s : State) (c : Chan) : (s.get c).1 = (s.chan c).value := rfl

theorem State.get_snd (s : State) (c : Chan) :
    (s.get c).2 = settled (s.setChan c { s.chan c with ready := false }) :=
  State.recomputeHostIrq_eq_settled _

/-! ## ByteQueue -/

/-- The bound of R38 is kept by the only operation that adds to the queue. -/
theorem State.enqueue_length_le (s : State) (bytes : List Byte) (h : s.queue.length ≤ queueCapacity) :
    (s.enqueue bytes).queue.length ≤ queueCapacity := by
  simp only [State.enqueue, List.length_append, List.length_take]
  omega

theorem State.dequeueOne_cons (s : State) {b : Byte} {rest : List Byte} (h : s.queue = b :: rest) :
    s.dequeueOne = (some b, { s with queue := rest }) := by
  unfold State.dequeueOne
  rw [h]

theorem State.dequeueOne_nil (s : State) (h : s.queue = []) : s.dequeueOne = (none, s) := by
  unfold State.dequeueOne
  rw [h]

/-! ## TimerPair -/

/-- The fold of R214 on numbers. -/
theorem nextLoad_val (old : Fin 6) : (nextLoad old).val = if old.val < 5 then old.val + 1 else 4 := by
  revert old
  decide

/-- A load is completed exactly by the byte that finds loadState 2 (R214). -/
theorem nextLoad_eq_three (old : Fin 6) : nextLoad old = 3 ↔ old.val = 2 := by
  revert old
  decide

/-- Once complete, a load stays so until a control word (R214, R409). -/
theorem three_le_nextLoad {old : Fin 6} (h : 3 ≤ old.val) : 3 ≤ (nextLoad old).val := by
  rw [nextLoad_val]
  split <;> omega

/-- The count a latch stands for lies in 1..65536 (R218). -/
theorem reload_bounds (l : LatchWord) : 1 ≤ reload l ∧ reload l ≤ 65536 := by
  unfold reload
  split
  · omega
  · next h =>
    have h1 : l.toNat ≠ 0 := fun h0 => h (BitVec.eq_of_toNat_eq (by simpa using h0))
    have h2 := l.isLt
    omega

/-- A data write is the merge into the latch, the count, and, on the byte that completes, the load's period (R214). -/
theorem State.dataWrite_cases (s : State) (c : ChannelId) (v : Byte) :
    s.dataWrite c v =
      let s' := s.setTimer c { s.timer c with
        latch := mergeLatch (s.timer c).access (s.timer c).loadState (s.timer c).latch v
        loadState := nextLoad (s.timer c).loadState }
      if (s.timer c).loadState.val = 2 then s'.loadComplete c else s' := by
  unfold State.dataWrite
  simp only [nextLoad_eq_three]

/-- A firing of an armed timer completes with its pending bit set if its enable is (R219, R220). -/
theorem fireIfArmed_of_armed {t : TimerId} {s : State} (h : s.armed t ≠ none) :
    fireIfArmed t s = .next (settled (s.fire t)) := by
  unfold fireIfArmed
  split
  · next h0 => exact absurd h0 h
  · exact complete_eq _

/-- An unarmed timer has no firing (R222). -/
theorem fireIfArmed_of_not_armed {t : TimerId} {s : State} (h : s.armed t = none) :
    fireIfArmed t s = .fault (.timerNotArmed t) := by
  unfold fireIfArmed
  rw [h]

/-- Ports 0, 1 and 2 take the data of A, B1 and B2 (R113, R210). -/
theorem State.timerWrite_data {p : BitVec 2} {c : ChannelId} (s : State) (v : Byte)
    (h : timerDataChannel p = some c) : s.timerWrite p v = s.dataWrite c v := by
  unfold State.timerWrite
  rw [h]

/-- Port 3 takes control words (R113, R210). -/
theorem State.timerWrite_control (s : State) (v : Byte) : s.timerWrite 3#2 v = s.controlWrite v := rfl

/-- A control word for a channel programs it (R211); one for no channel leaves a diagnostic (R212). -/
theorem State.controlWrite_of_select {v : Byte} {c : ChannelId} (s : State) (h : timerSelect v = some c) :
    s.controlWrite v = s.programChannel c v := by
  unfold State.controlWrite
  rw [h]

theorem State.controlWrite_of_none {v : Byte} (s : State) (h : timerSelect v = none) :
    s.controlWrite v = s.log (.noTimerChannel v) := by
  unfold State.controlWrite
  rw [h]

/-- A completed load of B1 or B2 arms Timer B only if both are complete (R217). -/
theorem State.loadCompleteB_of_incomplete (s : State) (h : s.chB1.loadState.val < 3 ∨ s.chB2.loadState.val < 3) :
    s.loadCompleteB = s :=
  if_neg (by omega)

/-! ## Unmapped space -/

theorem unmappedInternalRead_eq (port : BitVec 6) (s : State) :
    unmappedInternalRead port s =
      .next (settled ((s.log (.unmappedInternalRead port)).returnInternal 0xFF#8)) :=
  complete_eq _

theorem unmappedInternalWrite_eq (port : BitVec 6) (v : Byte) (s : State) :
    unmappedInternalWrite port v s = .next (settled (s.log (.unmappedInternalWrite port v))) :=
  complete_eq _

theorem unmappedHostRead_eq (sub : BitVec 4) (s : State) :
    unmappedHostRead sub s = .next (settled ((s.log (.unmappedHostRead sub)).returnHost 0xFF#8)) :=
  complete_eq _

theorem unmappedHostWrite_eq (sub : BitVec 4) (v : Byte) (s : State) :
    unmappedHostWrite sub v s = .next (settled (s.log (.unmappedHostWrite sub v))) :=
  complete_eq _

/-! ## Status bytes -/

theorem putBit_getLsbD (b : Byte) (pos k : Fin 8) (x : Bool) :
    (putBit b pos x).getLsbD k = if k = pos then x else b.getLsbD k := by
  revert k pos
  cases x <;> (intro pos k; fin_cases pos <;> fin_cases k <;> simp [putBit])

/-- A bit at which no field sits reads as `free` has it. -/
theorem placeBits_getLsbD_of_not_mem (free : Byte) (fs : List (Fin 8 × Bool)) (k : Fin 8)
    (h : k ∉ fs.map Prod.fst) : (placeBits free fs).getLsbD k = free.getLsbD k := by
  induction fs generalizing free with
  | nil => rfl
  | cons f fs ih =>
    simp only [List.map_cons, List.mem_cons, not_or] at h
    show (placeBits (putBit free f.1 f.2) fs).getLsbD k = _
    rw [ih _ h.2, putBit_getLsbD, if_neg h.1]

/-- Where the positions differ, each field reads at its own. -/
theorem placeBits_getLsbD_of_mem (free : Byte) (fs : List (Fin 8 × Bool)) (k : Fin 8) (x : Bool)
    (hn : (fs.map Prod.fst).Nodup) (h : (k, x) ∈ fs) : (placeBits free fs).getLsbD k = x := by
  induction fs generalizing free with
  | nil => simp at h
  | cons f fs ih =>
    simp only [List.map_cons, List.nodup_cons] at hn
    show (placeBits (putBit free f.1 f.2) fs).getLsbD k = _
    rcases List.mem_cons.mp h with rfl | h
    · rw [placeBits_getLsbD_of_not_mem _ _ _ hn.1, putBit_getLsbD, if_pos rfl]
    · exact ih _ hn.2 h

end Sys2Proof.Machine
end

