-- ==== Sys2Proof/Laws/PerInstr.lean ====
section
/-! SUPPORT. One lemma per instruction, for the host's case split (LAWS.json). -/

namespace Sys2Proof.Laws.PacketShape

/-- How many codes a format has: 7, 5 and 4 bits (R100-R102). -/
def codeCount : Format → Nat
  | .internal => 128
  | .host => 32
  | .event => 16

/-- The shape of an instruction's packet: its code fits its format, and on a bus the direction bit says whether a data
byte follows, one for a write and none for a read (R100-R102, R121). -/
def Statement (i : Instr) : Prop :=
  ∀ par : Parity, (i.code par).toNat < codeCount i.format ∧
    (i.format ≠ .event → i.operands.length = if takesByte i.format (i.code par) then 1 else 0)

/-! ## The three cases -/

theorem of_internalRead {i : Instr} (hf : i.format = .internal) (ho : i.operands = [])
    (hc : ∀ par, ∃ g sub, i.code par = internalCode 0#1 g sub) : Statement i := by
  intro par
  obtain ⟨g, sub, h⟩ := hc par
  rw [hf, ho, h, takesByte, (internalCode_fields 0#1 g sub).2.1]
  exact ⟨by clear h; revert g sub; decide, fun _ => rfl⟩

theorem of_internalWrite {i : Instr} {v : Byte} (hf : i.format = .internal) (ho : i.operands = [v])
    (hc : ∀ par, ∃ g sub, i.code par = internalCode 1#1 g sub) : Statement i := by
  intro par
  obtain ⟨g, sub, h⟩ := hc par
  rw [hf, ho, h, takesByte, (internalCode_fields 1#1 g sub).2.1]
  exact ⟨by clear h; revert g sub; decide, fun _ => rfl⟩

theorem of_hostRead {i : Instr} (hf : i.format = .host) (ho : i.operands = [])
    (hc : ∀ par, ∃ sub, i.code par = hostCode 0#1 sub) : Statement i := by
  intro par
  obtain ⟨sub, h⟩ := hc par
  rw [hf, ho, h, takesByte, (hostCode_fields 0#1 sub).2.1]
  exact ⟨by clear h; revert sub; decide, fun _ => rfl⟩

theorem of_hostWrite {i : Instr} {v : Byte} (hf : i.format = .host) (ho : i.operands = [v])
    (hc : ∀ par, ∃ sub, i.code par = hostCode 1#1 sub) : Statement i := by
  intro par
  obtain ⟨sub, h⟩ := hc par
  rw [hf, ho, h, takesByte, (hostCode_fields 1#1 sub).2.1]
  exact ⟨by clear h; revert sub; decide, fun _ => rfl⟩

theorem of_event {i : Instr} (hf : i.format = .event) (hc : ∀ par, (i.code par).toNat < 16) : Statement i :=
  fun par => ⟨by rw [hf]; exact hc par, fun h => absurd hf h⟩

/-! ## The instructions -/

theorem intChipRdEven (sss : BitVec 3) : Statement (Instr.intChipRdEven sss) :=
  of_internalRead rfl rfl fun _ => ⟨_, _, rfl⟩
theorem intChipStatusRd (sss : BitVec 3) : Statement (Instr.intChipStatusRd sss) :=
  of_internalRead rfl rfl fun _ => ⟨_, _, rfl⟩
theorem intChipAddrWr (sss : BitVec 3) (v : Byte) : Statement (Instr.intChipAddrWr sss v) :=
  of_internalWrite rfl rfl fun _ => ⟨_, _, rfl⟩
theorem intChipDataWr (sss : BitVec 3) (v : Byte) : Statement (Instr.intChipDataWr sss v) :=
  of_internalWrite rfl rfl fun _ => ⟨_, _, rfl⟩
theorem intQDataRd (sss : BitVec 3) : Statement (Instr.intQDataRd sss) := of_internalRead rfl rfl fun _ => ⟨_, _, rfl⟩
theorem intQStatusRd (sss : BitVec 3) : Statement (Instr.intQStatusRd sss) :=
  of_internalRead rfl rfl fun _ => ⟨_, _, rfl⟩
theorem intQDataWr (sss : BitVec 3) (v : Byte) : Statement (Instr.intQDataWr sss v) :=
  of_internalWrite rfl rfl fun _ => ⟨_, _, rfl⟩
theorem intQCmdWr (sss : BitVec 3) (v : Byte) : Statement (Instr.intQCmdWr sss v) :=
  of_internalWrite rfl rfl fun _ => ⟨_, _, rfl⟩
theorem intHsPeekD2h : Statement (Instr.intHsPeekD2h) := of_internalRead rfl rfl fun _ => ⟨_, _, rfl⟩
theorem intHsGetH2d : Statement (Instr.intHsGetH2d) := of_internalRead rfl rfl fun _ => ⟨_, _, rfl⟩
theorem intHsStatusRd : Statement (Instr.intHsStatusRd) := of_internalRead rfl rfl fun _ => ⟨_, _, rfl⟩
theorem intHsRdUnmapped (sub : BitVec 4) : Statement (Instr.intHsRdUnmapped sub) :=
  of_internalRead rfl rfl fun _ => ⟨_, _, rfl⟩
theorem intHsPutD2h (v : Byte) : Statement (Instr.intHsPutD2h v) := of_internalWrite rfl rfl fun _ => ⟨_, _, rfl⟩
theorem intHsWrUnmapped (sub : BitVec 4) (v : Byte) : Statement (Instr.intHsWrUnmapped sub v) :=
  of_internalWrite rfl rfl fun _ => ⟨_, _, rfl⟩
theorem intHsCtrlWr (v : Byte) : Statement (Instr.intHsCtrlWr v) := of_internalWrite rfl rfl fun _ => ⟨_, _, rfl⟩
theorem intG3Rd (sub : BitVec 4) : Statement (Instr.intG3Rd sub) := of_internalRead rfl rfl fun _ => ⟨_, _, rfl⟩
theorem intG3Wr (sub : BitVec 4) (v : Byte) : Statement (Instr.intG3Wr sub v) :=
  of_internalWrite rfl rfl fun _ => ⟨_, _, rfl⟩
theorem hGetD2h : Statement (Instr.hGetD2h) := of_hostRead rfl rfl fun _ => ⟨_, rfl⟩
theorem hPeekH2d : Statement (Instr.hPeekH2d) := of_hostRead rfl rfl fun _ => ⟨_, rfl⟩
theorem hStatusRd : Statement (Instr.hStatusRd) := of_hostRead rfl rfl fun _ => ⟨_, rfl⟩
theorem hRd3 : Statement (Instr.hRd3) := of_hostRead rfl rfl fun _ => ⟨_, rfl⟩
theorem hTimerRd (p : BitVec 2) : Statement (Instr.hTimerRd p) := of_hostRead rfl rfl fun _ => ⟨_, rfl⟩
theorem hRdTcrSpace (ss : BitVec 2) : Statement (Instr.hRdTcrSpace ss) := of_hostRead rfl rfl fun _ => ⟨_, rfl⟩
theorem hTsrRd (ss : BitVec 2) : Statement (Instr.hTsrRd ss) := of_hostRead rfl rfl fun _ => ⟨_, rfl⟩
theorem hWr02 (b : BitVec 1) (v : Byte) : Statement (Instr.hWr02 b v) := of_hostWrite rfl rfl fun _ => ⟨_, rfl⟩
theorem hPutH2d (v : Byte) : Statement (Instr.hPutH2d v) := of_hostWrite rfl rfl fun _ => ⟨_, rfl⟩
theorem hCtrlWr (v : Byte) : Statement (Instr.hCtrlWr v) := of_hostWrite rfl rfl fun _ => ⟨_, rfl⟩
theorem hTimerWr (p : BitVec 2) (v : Byte) : Statement (Instr.hTimerWr p v) := of_hostWrite rfl rfl fun _ => ⟨_, rfl⟩
theorem hTcrWr (ss : BitVec 2) (v : Byte) : Statement (Instr.hTcrWr ss v) := of_hostWrite rfl rfl fun _ => ⟨_, rfl⟩
theorem hWrTsrSpace (ss : BitVec 2) (v : Byte) : Statement (Instr.hWrTsrSpace ss v) :=
  of_hostWrite rfl rfl fun _ => ⟨_, rfl⟩
theorem evReset : Statement (Instr.evReset) := of_event rfl fun _ => by simp [Instr.code]
theorem evEnqueue (bytes : List Byte) : Statement (Instr.evEnqueue bytes) :=
  of_event rfl fun _ => by simp [Instr.code]
theorem evFireA : Statement (Instr.evFireA) := of_event rfl fun _ => by simp [Instr.code]
theorem evFireB : Statement (Instr.evFireB) := of_event rfl fun _ => by simp [Instr.code]
theorem evChipLevel (lvl : Bool) : Statement (Instr.evChipLevel lvl) := of_event rfl fun _ => by simp [Instr.code]

end Sys2Proof.Laws.PacketShape
end

