-- ==== Sys2Proof/Laws/Step.lean ====
section
/-! SUPPORT. What one step can do, said once, and where each kind of item leads. -/

namespace Sys2Proof.Machine

/-! ## The lifecycle -/

@[simp] theorem Phase.stops_running (c : Option Cycle) : Phase.running.stops c = none := rfl
@[simp] theorem Phase.stops_tornDown (c : Option Cycle) : Phase.tornDown.stops c = some .deviceTornDown := rfl

/-- An item in its own phase is not stopped. -/
@[simp] theorem Cycle.phase_stops (c : Cycle) : c.phase.stops (some c) = none := by
  unfold Cycle.phase
  split
  · next h => exact if_pos h
  · rfl

/-- What the lifecycle lets occur. -/
theorem Phase.stops_eq_none {p : Phase} {c : Option Cycle} (h : p.stops c = none) :
    p = .running ∨ (p = .unbuilt ∧ ∀ x, c = some x → x.constructs = true) := by
  cases p with
  | running => exact .inl rfl
  | tornDown => exact absurd h (by simp)
  | unbuilt =>
    refine .inr ⟨rfl, fun x hx => ?_⟩
    subst hx
    by_contra hc
    exact absurd h (by simp [Phase.stops, hc])

/-- `EV_RESET` in a session not yet begun constructs; at any other time it has no step (R400). -/
theorem execEvReset_of_unbuilt {s : State} (h : s.phase = .unbuilt) : execEvReset s = .next (settled s.construct) := by
  unfold execEvReset
  rw [h]
  exact complete_eq _

theorem execEvReset_of_built {s : State} (h : s.phase ≠ .unbuilt) : execEvReset s = .fault .alreadyConstructed := by
  unfold execEvReset
  split
  · next h0 => exact absurd h0 h
  all_goals rfl

/-- The item of construction leads to the packet of `EV_RESET`, whatever the parameters. -/
theorem route_of_constructs {cfg : Params} {c : Cycle} (h : c.constructs = true) :
    ∃ operands : List Byte, c = .event 0#4 operands ∧ c.route cfg = .packet .event (0#8 :: operands) := by
  cases c with
  | event code operands =>
    obtain rfl : code = 0#4 := by simpa [Cycle.constructs] using h
    exact ⟨operands, rfl, rfl⟩
  | _ => exact absurd h (by simp [Cycle.constructs])

/-! ## The step -/

/-- The step on an item at the head of the inbox that the lifecycle lets occur. -/
theorem step_admitted {s : State} {c : Cycle} {rest : List Cycle} (h : s.phase.stops (some c) = none)
    (hi : s.inbox = c :: rest) :
    step s = match c.route s.cfg with
      | .stop f => .fault f
      | .elsewhere => .next { s with inbox := rest }
      | .teardown => .next ({ s with inbox := rest } : State).tearDown
      | .packet f bytes => runPacket f bytes { s with inbox := rest } := by
  unfold step
  rw [hi, List.head?_cons, h] <;> rfl

/-- The step on the item at the head of the inbox of a running device. -/
theorem step_cons {s : State} {c : Cycle} {rest : List Cycle} (h : s.phase = .running) (hi : s.inbox = c :: rest) :
    step s = match c.route s.cfg with
      | .stop f => .fault f
      | .elsewhere => .next { s with inbox := rest }
      | .teardown => .next ({ s with inbox := rest } : State).tearDown
      | .packet f bytes => runPacket f bytes { s with inbox := rest } :=
  step_admitted (by rw [h]; rfl) hi

/-- The step on an item put at the head of the inbox. -/
theorem step_issue {s : State} (c : Cycle) (rest : List Cycle) (h : s.phase = .running) :
    step { s with inbox := c :: rest } = match c.route s.cfg with
      | .stop f => .fault f
      | .elsewhere => .next { s with inbox := rest }
      | .teardown => .next ({ s with inbox := rest } : State).tearDown
      | .packet f bytes => runPacket f bytes { s with inbox := rest } :=
  step_cons (s := { s with inbox := c :: rest }) h rfl

/-- Everything a step can do when it answers a next state: nothing; while running, take an item without effect, tear
down, or run one instruction; and in a session not yet begun, construct. -/
theorem step_eq_next {s t : State} (h : step s = .next t) :
    (s.inbox = [] ∧ s.phase ≠ .tornDown ∧ t = s) ∨
    (∃ c rest, s.inbox = c :: rest ∧
      ((s.phase = .running ∧
          (t = { s with inbox := rest } ∨ t = ({ s with inbox := rest } : State).tearDown ∨
            ∃ i, exec i { s with inbox := rest } = .next t)) ∨
        (s.phase = .unbuilt ∧ t = settled ({ s with inbox := rest } : State).construct))) := by
  unfold step at h
  split at h
  · exact absurd h (by simp)
  next hs =>
    have hp := Phase.stops_eq_none hs
    split at h
    next hi =>
      exact .inl ⟨hi, by rcases hp with hp | ⟨hp, -⟩ <;> rw [hp] <;> decide, (Host.Outcome.next.inj h).symm⟩
    next c rest hi =>
      refine .inr ⟨c, rest, hi, ?_⟩
      rcases hp with hp | ⟨hp, hc⟩
      · refine .inl ⟨hp, ?_⟩
        split at h
        · exact absurd h (by simp)
        · exact .inl (Host.Outcome.next.inj h).symm
        · exact .inr (.inl (Host.Outcome.next.inj h).symm)
        · unfold runPacket at h
          split at h
          next i _ => exact .inr (.inr ⟨i, h⟩)
          next => exact absurd h (by simp)
      · refine .inr ⟨hp, ?_⟩
        obtain ⟨operands, -, hr⟩ := route_of_constructs (cfg := s.cfg) (hc c (by rw [hi]; rfl))
        rw [hr] at h
        cases operands with
        | nil =>
          have he : execEvReset { s with inbox := rest } = .next t := h
          exact (Host.Outcome.next.inj ((execEvReset_of_unbuilt (s := { s with inbox := rest }) hp).symm.trans he)).symm
        | cons o os => exact absurd h (by simp [runPacket, decode, decodeEvent, decodeBareEvent])

/-! ## Where an item leads -/

/-- An internal access of a port the bus has leads to its code (R71, R100). -/
theorem routeInternal_of_lt {cfg : Params} {port : Nat} (w : BitVec 1) (operands : List Byte)
    (h : port < 2 ^ cfg.intPortBits) :
    routeInternal cfg w port operands =
      .packet .internal (internalCode w (BitVec.ofNat 2 (port / 16)) (BitVec.ofNat 4 port) :: operands) :=
  if_pos h

/-- A host access of a port of the window leads to its code (R72, R101). -/
theorem routeHost_of_lt {cfg : Params} {k : Nat} (w : BitVec 1) (operands : List Byte) (h : k < 16) :
    routeHost cfg w (cfg.hostBase + k) operands = .packet .host (hostCode w (BitVec.ofNat 4 k) :: operands) := by
  have hk : cfg.hostBase ≤ cfg.hostBase + k ∧ cfg.hostBase + k < cfg.hostBase + hostPorts :=
    ⟨Nat.le_add_right _ _, Nat.add_lt_add_left h _⟩
  rw [routeHost, if_pos hk, Nat.add_sub_cancel_left]

/-- An item of an agent that is running leads where `routeRunning` says. -/
theorem route_of_running {cfg : Params} {c : Cycle} (h : c.needsFirmware = false ∨ cfg.fwPresent = true) :
    c.route cfg = c.routeRunning cfg := by
  rw [Cycle.route, if_neg]
  rcases h with h | h <;> simp [h]

/-- Without firmware an item of the embedded side has no step (R380). -/
theorem route_of_no_firmware {cfg : Params} {c : Cycle} (h : c.needsFirmware = true) (hf : cfg.fwPresent = false) :
    c.route cfg = .stop .firmwareAbsent :=
  if_pos ⟨h, hf⟩

end Sys2Proof.Machine
end

