-- ==== Sys2Proof/Tests/Slice0.lean ====
section
/-! SUPPORT. The model's own tests. Expected values come from spec/95_test_vectors.md (V<n>, L1.<n>, P<n>), from the
examples of the rules, or from the encodings of spec/30_encoding.md, at the reference parameters. After them, for every
obligation with hypotheses, a named witness that meets them together. -/

namespace Sys2Proof.Tests

open Sys2Proof Sys2Proof.Machine

/-! ## Helpers -/

/-- Reference parameters with `CLK_A` = 2 Hz, `CLK_B` = 4 Hz, group 3 unmapped. -/
def cfg0 : Params := { Params.reference with clkA := 2, clkB := 4, g3Map := .unmapped, hostIrq := 5 }

/-- The reset state at those parameters. -/
def s0 : State := { State.reset with cfg := cfg0 }

/-- A projection of the next state, if there is one. -/
def got {α : Type} (r : Result) (f : State → α) : Option α :=
  match r with
  | .next t => some (f t)
  | _ => none

/-- The channel `{value, ready, rxEn, txEn}` in the spec's notation. -/
def ch (v : Byte) (r rx tx : Bool) : Channel := { value := v, ready := r, rxEn := rx, txEn := tx }

/-- Channel A armed as after V42. -/
def sV42 : State := { s0 with chA := ⟨.lowThenHigh, 4#4, 0x0010#16, 3⟩, armedA := some 8000 }

/-! ## WellFormed refuses -/

theorem test_wf_rdUnmapped : [0#4, 1#4, 2#4, 3#4, 15#4].map (fun x => (Instr.intHsRdUnmapped x).wf) =
    [false, false, false, true, true] := by decide
theorem test_wf_wrUnmapped : [0#4, 1#4, 2#4, 3#4, 4#4].map (fun x => (Instr.intHsWrUnmapped x 0x77#8).wf) =
    [false, true, true, false, true] := by decide

/-! ## Decoding, words written out from R100-R106 -/

theorem test_decode_group0 :
    decode .even .internal [0b00001110#8] = .ok (.intChipRdEven 0b111#3) ∧
    decode .even .internal [0b00000001#8] = .ok (.intChipStatusRd 0b000#3) ∧
    decode .even .internal [0b01000010#8, 0x20#8] = .ok (.intChipAddrWr 0b001#3 0x20#8) ∧
    decode .even .internal [0b01000011#8, 0x7F#8] = .ok (.intChipDataWr 0b001#3 0x7F#8) := by decide
theorem test_decode_group1 :
    decode .even .internal [0b00011110#8] = .ok (.intQDataRd 0b111#3) ∧
    decode .even .internal [0b00010011#8] = .ok (.intQStatusRd 0b001#3) ∧
    decode .even .internal [0b01010000#8, 0x55#8] = .ok (.intQDataWr 0b000#3 0x55#8) ∧
    decode .even .internal [0b01010001#8, 0x01#8] = .ok (.intQCmdWr 0b000#3 0x01#8) ∧
    decode .odd .internal [0b00010001#8] = .ok (.intQDataRd 0b000#3) ∧
    decode .odd .internal [0b00010000#8] = .ok (.intQStatusRd 0b000#3) := by decide
theorem test_decode_group2 :
    decode .even .internal [0b00100000#8] = .ok .intHsPeekD2h ∧
    decode .even .internal [0b00100001#8] = .ok .intHsGetH2d ∧
    decode .even .internal [0b00100010#8] = .ok .intHsStatusRd ∧
    decode .even .internal [0b00100011#8] = .ok (.intHsRdUnmapped 3#4) ∧
    decode .even .internal [0b00101111#8] = .ok (.intHsRdUnmapped 15#4) ∧
    decode .even .internal [0b01100000#8, 0x5A#8] = .ok (.intHsPutD2h 0x5A#8) ∧
    decode .even .internal [0b01100001#8, 0x77#8] = .ok (.intHsWrUnmapped 1#4 0x77#8) ∧
    decode .even .internal [0b01101100#8, 0x77#8] = .ok (.intHsWrUnmapped 12#4 0x77#8) ∧
    decode .even .internal [0b01100011#8, 0x05#8] = .ok (.intHsCtrlWr 0x05#8) := by decide
theorem test_decode_group3 :
    decode .even .internal [0b00110000#8] = .ok (.intG3Rd 0#4) ∧
    decode .even .internal [0b01110111#8, 0x34#8] = .ok (.intG3Wr 7#4 0x34#8) := by decide
theorem test_decode_hostReads :
    decode .even .host [0b00000000#8] = .ok .hGetD2h ∧
    decode .even .host [0b00000001#8] = .ok .hPeekH2d ∧
    decode .even .host [0b00000010#8] = .ok .hStatusRd ∧
    decode .even .host [0b00000011#8] = .ok .hRd3 ∧
    decode .even .host [0b00000101#8] = .ok (.hTimerRd 1#2) ∧
    decode .even .host [0b00001011#8] = .ok (.hRdTcrSpace 3#2) ∧
    decode .even .host [0b00001100#8] = .ok (.hTsrRd 0#2) := by decide
theorem test_decode_hostWrites :
    decode .even .host [0b00010000#8, 0x12#8] = .ok (.hWr02 0#1 0x12#8) ∧
    decode .even .host [0b00010010#8, 0x12#8] = .ok (.hWr02 1#1 0x12#8) ∧
    decode .even .host [0b00010001#8, 0x37#8] = .ok (.hPutH2d 0x37#8) ∧
    decode .even .host [0b00010011#8, 0x03#8] = .ok (.hCtrlWr 0x03#8) ∧
    decode .even .host [0b00010111#8, 0x34#8] = .ok (.hTimerWr 3#2 0x34#8) ∧
    decode .even .host [0b00011000#8, 0xC0#8] = .ok (.hTcrWr 0#2 0xC0#8) ∧
    decode .even .host [0b00011101#8, 0x00#8] = .ok (.hWrTsrSpace 1#2 0x00#8) := by decide
theorem test_decode_events :
    decode .even .event [0b00000000#8] = .ok .evReset ∧
    decode .even .event [0b00000001#8] = .ok (.evEnqueue []) ∧
    decode .even .event [0b00000001#8, 0x90#8, 0x3C#8, 0x7F#8] = .ok (.evEnqueue [0x90#8, 0x3C#8, 0x7F#8]) ∧
    decode .even .event [0b00000010#8] = .ok .evFireA ∧
    decode .even .event [0b00000011#8] = .ok .evFireB ∧
    decode .even .event [0b00000100#8, 0x01#8] = .ok (.evChipLevel true) ∧
    decode .even .event [0b00000100#8, 0x00#8] = .ok (.evChipLevel false) := by decide
theorem test_decode_rejects :
    decode .even .internal [] = .error .emptyPacket ∧
    decode .even .internal [0x80#8] = .error (.codeTooWide 0x80#8) ∧
    decode .even .host [0x20#8] = .error (.codeTooWide 0x20#8) ∧
    decode .even .event [0x10#8] = .error (.codeTooWide 0x10#8) ∧
    decode .even .internal [0x20#8, 0x00#8] = .error (.badOperands 0x20#8) ∧
    decode .even .host [0x11#8] = .error (.badOperands 0x11#8) ∧
    decode .even .event [0x04#8, 0x02#8] = .error (.badOperands 0x04#8) ∧
    decode .even .event [0x05#8] = .error (.noSuchEvent 0x05#8) := by decide
theorem test_tableWord :
    decodeTableWord 7 0x00 = some (.intChipRdEven 0#3) ∧ decodeTableWord 5 0x00 = some .hGetD2h ∧
    decodeTableWord 4 0x0 = some .evReset ∧ decodeTableWord 8 0x60 = some (.intHsPutD2h 0x00#8) ∧
    decodeTableWord 8 0x18 = some (.hTcrWr 0#2 0x00#8) ∧ decodeTableWord 8 0x04 = some (.evChipLevel false) ∧
    decodeTableWord 8 0x80 = none := by decide

/-! ## Group 0 and 3, unmapped ports -/

/-- V90. -/
theorem test_intChipRdEven : got (exec (.intChipRdEven 7#3) s0) (·.out.intReads) = some [0xFF#8] := by decide
/-- V91: one status call, one byte returned. -/
theorem test_intChipStatusRd :
    got (exec (.intChipStatusRd 0#3) s0) (fun t => (t.out.chipCalls, t.out.intReads.length)) = some ([.status], 1) := by
  decide
/-- V92. -/
theorem test_intChipAddrWr : got (exec (.intChipAddrWr 1#3 0x20#8) s0) (·.out.chipCalls) =
    some [.writeAddr 0x20#8] := by decide
theorem test_intChipDataWr : got (exec (.intChipDataWr 1#3 0x7F#8) s0) (·.out.chipCalls) =
    some [.writeData 0x7F#8] := by decide
/-- V93, V94. -/
theorem test_intHsRdUnmapped : got (exec (.intHsRdUnmapped 3#4) s0) (·.out.intReads) = some [0xFF#8] := by decide
theorem test_intHsWrUnmapped : got (exec (.intHsWrUnmapped 1#4 0x77#8) s0) (fun t => (t.h2d, t.d2h)) =
    some (s0.h2d, s0.d2h) := by decide
/-- V95, V96. -/
theorem test_intG3Rd :
    got (exec (.intG3Rd 0#4) s0) (·.out.intReads) = some [0xFF#8] ∧
    got (exec (.intG3Rd 0#4) { s0 with cfg := { cfg0 with g3Map := .timerPorts } }) (·.out.intReads) =
      some [0x00#8] := by decide
theorem test_intG3Wr :
    got (exec (.intG3Wr 7#4 0x34#8) s0) (·.chA) = some s0.chA ∧
    got (exec (.intG3Wr 7#4 0x34#8) { s0 with cfg := { cfg0 with g3Map := .timerPorts } }) (·.chA) =
      some ⟨.lowThenHigh, 4#4, 0x0000#16, 1⟩ := by decide
/-- V98, V100, V102. -/
theorem test_hRd3 : got (exec .hRd3 s0) (·.out.hostReads) = some [0xFF#8] := by decide
theorem test_hRdTcrSpace : got (exec (.hRdTcrSpace 1#2) { s0 with tcr := 0xC4#8 }) (·.out.hostReads) =
    some [0xFF#8] := by decide
theorem test_hWr02 : got (exec (.hWr02 1#1 0x12#8) s0) (fun t => (t.d2h, t.out.diags)) =
    some (s0.d2h, [.unmappedHostWrite 2#4 0x12#8]) := by decide
theorem test_hWrTsrSpace : got (exec (.hWrTsrSpace 1#2 0x00#8) { s0 with pending := ⟨true, true⟩ }) (·.pending) =
    some ⟨true, true⟩ := by decide

/-! ## ByteQueue -/

/-- V24. -/
theorem test_evEnqueue_overflow :
    got (exec (.evEnqueue [0xA0#8, 0xA1#8, 0xA2#8]) { s0 with queue := List.replicate 62 0x00#8 })
      (fun t => (t.queue.length, t.queue.drop 62)) = some (64, [0xA0#8, 0xA1#8]) := by decide +kernel
/-- V23, V26. -/
theorem test_intQDataRd : got (exec (.intQDataRd 0#3) { s0 with queue := [0x90#8, 0x3C#8, 0x7F#8] })
    (fun t => (t.out.intReads, t.queue)) = some ([0x90#8], [0x3C#8, 0x7F#8]) := by decide
theorem test_intQDataRd_empty : got (exec (.intQDataRd 0#3) s0) (fun t => (t.queue, t.out.intReads.length)) =
    some ([], 1) := by decide
/-- V21, and the example of R268. -/
theorem test_intQStatusRd :
    got (exec (.intQStatusRd 0#3) s0) (·.out.intReads) = some [0x02#8] ∧
    got (exec (.intQStatusRd 0#3) { s0 with queue := [1#8, 2#8, 3#8], queueMode := 0x01#8 }) (·.out.intReads) =
      some [0x07#8] := by decide
/-- V30. -/
theorem test_intQDataWr :
    got (exec (.intQDataWr 0#3 0x55#8) s0) (·.queue) = some [] ∧
    got (exec (.intQDataWr 0#3 0x55#8) { s0 with cfg := { cfg0 with qDataWrite := .enqueue } }) (·.queue) =
      some [0x55#8] := by decide
/-- V27, V28, V29. -/
theorem test_intQCmdWr : got (exec (.intQCmdWr 0#3 0x01#8) s0) (fun t => (t.queueMode, t.qIrq, t.cpuIrq)) =
    some (0x01#8, true, true) := by decide
theorem test_qIrq :
    got (exec (.hTcrWr 0#2 0x10#8) { s0 with queueMode := 0x01#8 }) (fun t => (t.qIrq, t.out.irqEdges)) =
      some (false, []) ∧
    got (exec (.intQCmdWr 0#3 0xFE#8) s0) (fun t => (t.queueMode, t.qIrq)) = some (0xFE#8, false) := by decide

/-! ## Handshake channels -/

/-- V1, V2. -/
theorem test_intHsPutD2h : got (exec (.intHsPutD2h 0x5A#8) s0) (·.d2h) = some (ch 0x5A#8 true false false) := by decide
theorem test_intHsPutD2h_overwrites : got (exec (.intHsPutD2h 0xA5#8) { s0 with d2h := ch 0x5A#8 true false false })
    (·.d2h) = some (ch 0xA5#8 true false false) := by decide
/-- V4, V3. -/
theorem test_hGetD2h : got (exec .hGetD2h
      { s0 with d2h := ch 0x33#8 true true false, tcr := 0xC0#8, hostIrqLevel := true })
    (fun t => (t.out.hostReads, t.d2h, t.out.irqEdges, t.hostIrqLevel)) =
      some ([0x33#8], ch 0x33#8 false true false, [false], false) := by decide
theorem test_hGetD2h_empty : got (exec .hGetD2h s0) (fun t => (t.out.hostReads, t.d2h.ready)) =
    some ([0x00#8], false) := by decide
/-- V5. -/
theorem test_intHsPeekD2h : got (exec .intHsPeekD2h { s0 with d2h := ch 0x33#8 true false false })
    (fun t => (t.out.intReads, t.d2h)) = some ([0x33#8], ch 0x33#8 true false false) := by decide
/-- P5 line 9. -/
theorem test_intHsGetH2d : got (exec .intHsGetH2d { s0 with h2d := ch 0x66#8 true false true, tcr := 0xC0#8 })
    (fun t => (t.out.intReads, t.h2d, t.out.irqEdges)) = some ([0x66#8], ch 0x66#8 false false true, [true]) := by
  decide
/-- L1.1 step 2, V82. -/
theorem test_hPutH2d : got (exec (.hPutH2d 0x37#8) s0) (·.h2d) = some (ch 0x37#8 true false false) := by decide
theorem test_hPutH2d_lowers : got (exec (.hPutH2d 0x44#8)
      { s0 with h2d := ch 0x00#8 false false true, tcr := 0xC0#8, hostIrqLevel := true })
    (fun t => (t.out.irqEdges, t.tsr)) = some ([false], 0x7C#8) := by decide
/-- L1.1 step 3. -/
theorem test_hPeekH2d : got (exec .hPeekH2d { s0 with h2d := ch 0x37#8 true false false })
    (fun t => (t.out.hostReads, t.h2d)) = some ([0x37#8], ch 0x37#8 true false false) := by decide
/-- V6, V7; V112, V113. -/
theorem test_intHsCtrlWr :
    got (exec (.intHsCtrlWr 0x05#8) { s0 with h2d := ch 0x11#8 true false false }) (fun t => (t.h2d.rxEn, t.cpuIrq)) =
      some (true, true) ∧
    got (exec (.intHsCtrlWr 0x03#8) s0) (fun t => (t.d2h.txEn, t.cpuIrq)) = some (true, true) := by decide
theorem test_intHsCtrlWr_select :
    got (exec (.intHsCtrlWr 0xF5#8) s0) (·.h2d) = some (ch 0x00#8 false true false) ∧
    got (exec (.intHsCtrlWr 0x07#8) s0) (fun t => (t.h2d, t.d2h, t.extra)) = some (s0.h2d, s0.d2h, false) := by decide
/-- V115, V116. -/
theorem test_hCtrlWr :
    got (exec (.hCtrlWr 0x0F#8) s0) (·.extra) = some false ∧
    got (execAll [.hCtrlWr 0x05#8, .hCtrlWr 0x03#8] s0)
      (fun t => (t.d2h.rxEn, t.h2d.txEn, t.hostStatus, t.deviceStatus)) = some (true, true, 0x1E#8, 0x10#8) := by decide
/-- V122, V110; P1 line 6. -/
theorem test_intHsStatusRd :
    got (exec .intHsStatusRd s0) (·.out.intReads) = some [0x10#8] ∧
    got (exec .intHsStatusRd { s0 with h2d := ch 0x99#8 true true false }) (·.out.intReads) = some [0x74#8] := by decide
theorem test_hStatusRd :
    got (exec .hStatusRd { s0 with extra := true }) (·.out.hostReads) = some [0x90#8] ∧
    got (exec .hStatusRd { s0 with h2d := ch 0x99#8 true false false }) (·.out.hostReads) = some [0x00#8] := by decide

/-! ## TimerPair -/

/-- V40, V49, V50. -/
theorem test_hTimerWr_control :
    got (exec (.hTimerWr 3#2 0x34#8) sV42) (fun t => (t.chA, t.armedA, t.out.diags)) =
      some (⟨.lowThenHigh, 4#4, 0x0010#16, 1⟩, none, []) ∧
    got (exec (.hTimerWr 3#2 0xF4#8) sV42) (fun t => (t.chA, t.armedA)) = some (sV42.chA, some 8000) ∧
    got (exec (.hTimerWr 3#2 0x30#8) s0) (fun t => (t.chA.opMode, t.out.diags)) =
      some (0#4, [.unsupportedTimerMode 0x30#8]) := by decide +kernel
/-- V41, V42, V43 to V45 (16000 / CLK_A = 8000). -/
theorem test_hTimerWr_data :
    got (execAll [.hTimerWr 3#2 0x34#8, .hTimerWr 0#2 0x10#8, .hTimerWr 0#2 0x00#8] s0)
      (fun t => (t.chA, t.armedA)) = some (sV42.chA, some 8000) ∧
    got (execAll [.hTimerWr 0#2 0x55#8, .hTimerWr 0#2 0x12#8, .hTimerWr 0#2 0x77#8] sV42)
      (fun t => (t.chA, t.armedA)) = some (⟨.lowThenHigh, 4#4, 0x1277#16, 4⟩, some 8000) := by decide +kernel
/-- V46, V47, V48: 5000, 256000 and 65536000 over CLK_A. -/
theorem test_timer_accessModes :
    got (execAll [.hTimerWr 3#2 0x14#8, .hTimerWr 0#2 0x05#8] s0) (·.armedA) = some (some 2500) ∧
    got (execAll [.hTimerWr 3#2 0x24#8, .hTimerWr 0#2 0x01#8] s0) (·.armedA) = some (some 128000) ∧
    got (execAll [.hTimerWr 3#2 0x04#8, .hTimerWr 0#2 0x99#8, .hTimerWr 0#2 0x99#8, .hTimerWr 0#2 0x99#8] s0)
      (fun t => (t.chA.latch, t.armedA)) = some (0x0000#16, some 32768000) := by decide +kernel
/-- V52, V53, V54: 6000 / CLK_B. -/
theorem test_timerB :
    got (execAll [.hTimerWr 3#2 0x74#8, .hTimerWr 1#2 0x02#8, .hTimerWr 1#2 0x00#8] s0)
      (fun t => (t.chB1, t.armedB)) = some (⟨.lowThenHigh, 4#4, 0x0002#16, 3⟩, none) ∧
    got (execAll [.hTimerWr 3#2 0x74#8, .hTimerWr 1#2 0x02#8, .hTimerWr 1#2 0x00#8,
        .hTimerWr 3#2 0xB4#8, .hTimerWr 2#2 0x03#8, .hTimerWr 2#2 0x00#8] s0) (·.armedB) = some (some 1500) ∧
    got (exec (.hTimerWr 3#2 0x74#8) { s0 with armedB := some 1500 }) (·.armedB) = some none := by decide +kernel
/-- V60, V99. -/
theorem test_hTimerRd : got (exec (.hTimerRd 1#2) sV42) (·.out.hostReads) = some [0x00#8] := by decide
/-- V57, V71, V59. -/
theorem test_evFireA :
    got (exec .evFireA sV42) (fun t => (t.pending, t.armedA)) = some (⟨false, false⟩, some 8000) ∧
    got (exec .evFireA { sV42 with tcr := 0xC4#8 }) (fun t => (t.pending.a, t.out.irqEdges, t.tsr)) =
      some (true, [true], 0x7D#8) := by decide +kernel
theorem test_evFireA_unarmed : got (exec .evFireA s0) (·.pending) = none := by decide
/-- The example of R220. -/
theorem test_evFireB : got (exec .evFireB { s0 with armedB := some 1500, tcr := 0xC8#8 })
    (fun t => (t.pending.b, t.tsr)) = some (true, 0x7E#8) := by decide

/-! ## TCR, TSR, chip level, construction -/

/-- V76, V78, V79. -/
theorem test_hTcrWr : got (exec (.hTcrWr 0#2 0xC8#8)
      { s0 with pending := ⟨true, true⟩, tcr := 0xCC#8, hostIrqLevel := true })
    (fun t => (t.pending, t.out.irqEdges)) = some (⟨false, true⟩, []) := by decide
theorem test_hTcrWr_gate : got (exec (.hTcrWr 0#2 0x04#8)
      { s0 with pending := ⟨true, false⟩, tcr := 0xC4#8, hostIrqLevel := true })
    (fun t => (t.pending.a, t.out.irqEdges, t.tsr)) = some (true, [false], 0x7D#8) := by decide
/-- V70, V80. -/
theorem test_hTsrRd :
    got (exec (.hTsrRd 0#2) s0) (·.out.hostReads) = some [0x7C#8] ∧
    got (exec (.hTsrRd 3#2) { s0 with h2d := ch 0x00#8 false false true }) (·.out.hostReads) = some [0xFC#8] := by decide
/-- V120. -/
theorem test_evChipLevel : got (exec (.evChipLevel true) s0) (fun t => (t.chipIrq, t.cpuIrq, t.hostIrqLevel)) =
    some (true, true, false) := by decide
/-- V122. -/
theorem test_evReset : got (exec .evReset { sV42 with phase := .unbuilt, tcr := 0xC4#8, h2d := ch 0x99#8 true true true })
    (fun t => (t.deviceStatus, t.hostStatus, t.tsr, t.cpuIrq)) = some (0x10#8, 0x10#8, 0x7C#8, false) := by decide
/-- R400: construction occurs once, and first. -/
theorem test_evReset_once :
    step { s0 with inbox := [.event 0#4 []] } = .fault .alreadyConstructed ∧
    step { s0 with phase := .unbuilt, inbox := [.hostRead 0] } = .fault .notConstructed := ⟨rfl, rfl⟩

/-! ## The step -/

/-- V97, and the host window at `HOST_BASE`. -/
theorem test_step_alias : got (step { s0 with inbox := [.intRead 0x62] }) (fun t => (t.out.intReads, t.inbox)) =
    some ([0x10#8], []) := by decide
theorem test_step_hostWindow :
    got (step { s0 with cfg := { cfg0 with hostBase := 0x330 }, inbox := [.hostRead 0x33F] }) (·.out.hostReads) =
      some [0x7C#8] ∧
    got (step { s0 with cfg := { cfg0 with hostBase := 0x330 }, inbox := [.hostRead 0x340] }) (·.out.hostReads) =
      some [] := by decide
/-- From reset, the host's side and the embedded side both run a word placed by `withFetchWord`. -/
theorem test_step_fetchWord :
    got (step (State.reset.withFetchWord 8 0x60)) (·.d2h.ready) = some true ∧
    got (step (State.reset.withFetchWord 8 0x11)) (·.h2d.ready) = some true := by decide

/-! ## Witnesses: the hypotheses of each obligation are met together, clause by clause -/

/-- A state without firmware, one torn down, and a read to be taken. -/
def sNoFw : State := { s0 with cfg := { cfg0 with fwPresent := false } }

theorem cfg0_wf : cfg0.Wf where
  portBits := by decide
  clkA_pos := by decide +kernel
  clkB_pos := by decide +kernel
  hsPos_nodup := by decide
  qStatPos_nodup := by decide

/-- A safe state with Timer A armed and pending, the line high, and an item to take. -/
def sSafe : State :=
  { sV42 with
    tcr := 0xC4#8, pending := ⟨true, false⟩, hostIrqLevel := true, queue := [0x90#8]
    out := { Outputs.empty with irqEdges := [true, false, true] }, inbox := [.intRead 0x10] }

theorem sSafe_inv : sSafe.Inv where
  cfg_wf := cfg0_wf
  unbuilt_silent := by decide
  queue_le := by decide
  pendingA_enabled := by decide
  pendingB_enabled := by decide
  line_settled := by decide
  edges_alternate := by decide
  lowThenHighA := by decide
  lowThenHighB1 := by decide
  lowThenHighB2 := by decide
  armedA_loaded := by
    intro p hp
    have h : p = 8000 := (Option.some.inj hp).symm
    subst h
    exact ⟨by decide, by decide +kernel, by decide +kernel⟩
  armedB_loaded := by
    intro p hp
    cases hp

theorem witness_DecodeEncodeRoundTrip :
    (Instr.intHsRdUnmapped 3#4).wf = true ∧ (Instr.intHsWrUnmapped 15#4 0xFF#8).wf = true := by decide
theorem witness_EncodeDecodeRoundTrip : decode .odd .internal [0x63#8, 0x05#8] = .ok (.intHsCtrlWr 0x05#8) := by decide
theorem witness_EveryBusCodeDecodes :
    (63#8).toNat < 64 ∧ (64 ≤ (64#8).toNat ∧ (127#8).toNat < 128) ∧ (15#8).toNat < 16 ∧
    (16 ≤ (16#8).toNat ∧ (31#8).toNat < 32) ∧ (3#8).toNat ∈ [0, 2, 3] ∧ (1#8).toNat = 1 ∧
    ((4#8).toNat = 4 ∧ (1#8).toNat < 2) ∧ (5 ≤ (5#8).toNat ∧ (15#8).toNat < 16) := by decide
theorem witness_OddParitySwapsGroupOneOnly :
    (0x1F#8).toNat / 16 % 4 = 1 ∧ (0x20#8).toNat / 16 % 4 ≠ 1 ∧
    decode .odd .internal [0x1F#8] = .ok (.intQDataRd 7#3) := by decide
theorem witness_StepRunsDecodedInstruction :
    (sSafe.phase = .running ∧ sSafe.inbox = .intRead 0x10 :: [] ∧
      (Cycle.intRead 0x10).route sSafe.cfg = .packet .internal [0x10#8] ∧
      decode sSafe.cfg.qDataParity .internal [0x10#8] = .ok (.intQDataRd 0#3)) ∧
    (State.unbuilt.phase = .unbuilt ∧ (Cycle.event 0#4 []).route cfg0 = .packet .event [0x00#8] ∧
      decode .even .event [0x00#8] = .ok .evReset) := by decide
theorem witness_FetchWordRunsTableInstruction :
    s0.cfg.qDataParity = .even ∧ 6 ≤ s0.cfg.intPortBits ∧ decodeTableWord 8 0x63 = some (.intHsCtrlWr 0x00#8) := by decide
theorem witness_InternalPortsDecodeLowSixBits :
    s0.phase = .running ∧ s0.cfg.fwPresent = true ∧ 255 < 2 ^ s0.cfg.intPortBits ∧ 2 ^ s0.cfg.intPortBits ≤ 256 := by
  decide
theorem witness_HostWindowIsSixteenPorts :
    s0.phase = .running ∧ (15 < 16 ∧ 15 = s0.cfg.hostBase + 15) ∧ s0.cfg.hostBase + 16 ≤ 16 := by decide
theorem witness_NoFirmwareSilencesEmbeddedSide : sNoFw.phase = .running ∧ sNoFw.cfg.fwPresent = false := by decide
theorem witness_TeardownEndsTheSession :
    s0.phase = .running ∧ ({ s0 with phase := .tornDown } : State).phase = .tornDown := by decide
theorem witness_AcknowledgeAndIdleChangeNothing :
    s0.phase = .running ∧ s0.cfg.fwPresent = true ∧ s0.inbox = [] := by decide
theorem witness_ReservedEventCodesHaveNoStep :
    s0.phase = .running ∧ 5 ≤ (5#4).toNat ∧ 5 ≤ (15#4).toNat := by decide
theorem witness_ParametersNeverChange : ∃ t, step sSafe = .next t := ⟨_, rfl⟩
theorem witness_PeekHasNoSideEffect :
    sSafe.hostIrqLevel = sSafe.hostActive ∧ s0.hostIrqLevel = s0.hostActive := by decide
theorem witness_DeviceControlWordWritesSelectedFlag :
    s0.cfg.Wf ∧ (0x05#8).toNat / 2 % 8 = s0.cfg.hsPos.h2dRxEn.val ∧ (0x03#8).toNat / 2 % 8 = s0.cfg.hsPos.d2hTxEn.val ∧
    (0x0F#8).toNat / 2 % 8 = s0.cfg.hsPos.extra.val ∧ (0x0D#8).toNat / 2 % 8 ≠ s0.cfg.hsPos.extra.val :=
  ⟨cfg0_wf, by decide⟩
theorem witness_HostControlWordWritesSelectedFlag :
    s0.cfg.Wf ∧ (0x05#8).toNat / 2 % 8 = s0.cfg.hsPos.h2dRxEn.val ∧ (0x03#8).toNat / 2 % 8 = s0.cfg.hsPos.d2hTxEn.val ∧
    ((0x0F#8).toNat / 2 % 8 ≠ s0.cfg.hsPos.h2dRxEn.val ∧ (0x0F#8).toNat / 2 % 8 ≠ s0.cfg.hsPos.d2hTxEn.val) :=
  ⟨cfg0_wf, by decide⟩
theorem witness_ChannelSequenceLaw :
    (s0.chan .d2h).ready = false ∧
    (∃ before between x, [ChannelOp.get, .put 0x42#8, .peek, .get] = before ++ ChannelOp.put x :: between ++ [.get] ∧
      ∀ op ∈ between, ∀ y, op ≠ .put y) :=
  ⟨by decide, [.get], [.peek], 0x42#8, rfl, by simp⟩
theorem witness_ChannelsAreIndependent : Chan.h2d ≠ Chan.d2h := by decide
theorem witness_EnableFlagsHaveOneWriter :
    (∃ t, exec (.intHsCtrlWr 0x05#8) s0 = .next t ∧ t.h2d.rxEn ≠ s0.h2d.rxEn) ∧
    (∃ t, exec (.intHsCtrlWr 0x03#8) s0 = .next t ∧ t.d2h.txEn ≠ s0.d2h.txEn) ∧
    (∃ t, exec (.hCtrlWr 0x05#8) s0 = .next t ∧ t.d2h.rxEn ≠ s0.d2h.rxEn) ∧
    (∃ t, exec (.hCtrlWr 0x03#8) s0 = .next t ∧ t.h2d.txEn ≠ s0.h2d.txEn) :=
  ⟨⟨_, rfl, by decide⟩, ⟨_, rfl, by decide⟩, ⟨_, rfl, by decide⟩, ⟨_, rfl, by decide⟩⟩
theorem witness_ReadySetByPutClearedByGet :
    (∃ t, exec (.hPutH2d 1#8) s0 = .next t ∧ s0.h2d.ready = false ∧ t.h2d.ready = true) ∧
    (∃ t, exec (.intHsPutD2h 1#8) s0 = .next t ∧ s0.d2h.ready = false ∧ t.d2h.ready = true) ∧
    (∃ t, exec .intHsGetH2d { s0 with h2d := ch 1#8 true false false } = .next t ∧ t.h2d.ready = false) ∧
    (∃ t, exec .hGetD2h { s0 with d2h := ch 1#8 true false false } = .next t ∧ t.d2h.ready = false) ∧
    (∃ t, exec .evReset State.unbuilt = .next t) :=
  ⟨⟨_, rfl, by decide⟩, ⟨_, rfl, by decide⟩, ⟨_, rfl, by decide⟩, ⟨_, rfl, by decide⟩, ⟨_, rfl⟩⟩
theorem witness_StatusByteFields : s0.cfg.Wf ∧ (0 : Fin 8) ∉ s0.cfg.hsPos.toList ∧ (3 : Fin 8) ∉ s0.cfg.qStatPos.toList :=
  ⟨cfg0_wf, by decide⟩
theorem witness_QueueReadReturnsOldest : sSafe.queue = 0x90#8 :: [] ∧ s0.queue = [] := by decide
theorem witness_QueueDataWriteFollowsParameter :
    s0.cfg.qDataWrite = .ignore ∧ ({ cfg0 with qDataWrite := .enqueue } : Params).qDataWrite = .enqueue := by decide
theorem witness_QueueInterruptCondition : ({ s0 with queueMode := 0x01#8 } : State).qIrq = true := by decide
theorem witness_QueueIsFirstInFirstOut : s0.queue = [] := by decide
theorem witness_TimerControlWordProgramsChannel :
    (0x3F#8).toNat / 64 = 0 ∧ (0x40#8).toNat / 64 = 1 ∧ (0xBF#8).toNat / 64 = 2 ∧ (0xC0#8).toNat / 64 = 3 := by decide
theorem witness_TimerADataWriteLoadsAndArms :
    (∃ s : State, (s.chA.access = .lowThenHigh → 1 ≤ s.chA.loadState.val) ∧ s.chA.loadState.val = 2) ∧
    ((sV42.chA.access = .lowThenHigh → 1 ≤ sV42.chA.loadState.val) ∧ sV42.chA.loadState.val ≠ 2) :=
  ⟨⟨{ s0 with chA := ⟨.lowThenHigh, 4#4, 0x0010#16, 2⟩ }, by decide⟩, by decide⟩
theorem witness_TimerBDataWriteLoadsAndArms :
    (∃ s : State, (s.chB1.access = .lowThenHigh → 1 ≤ s.chB1.loadState.val) ∧
      s.chB1.loadState.val = 2 ∧ 3 ≤ s.chB2.loadState.val) ∧
    (∃ s : State, (s.chB2.access = .lowThenHigh → 1 ≤ s.chB2.loadState.val) ∧
      s.chB2.loadState.val = 2 ∧ 3 ≤ s.chB1.loadState.val) ∧
    (∃ s : State, (s.chB1.access = .lowThenHigh → 1 ≤ s.chB1.loadState.val) ∧ s.chB2.loadState.val < 3) ∧
    (∃ s : State, (s.chB2.access = .lowThenHigh → 1 ≤ s.chB2.loadState.val) ∧ s.chB1.loadState.val < 3) :=
  ⟨⟨{ s0 with chB1 := ⟨.lowOnly, 4#4, 0#16, 2⟩, chB2 := ⟨.lowOnly, 4#4, 0#16, 3⟩ }, by decide⟩,
   ⟨{ s0 with chB2 := ⟨.lowOnly, 4#4, 0#16, 2⟩, chB1 := ⟨.lowOnly, 4#4, 0#16, 5⟩ }, by decide⟩,
   ⟨s0, by decide⟩, ⟨s0, by decide⟩⟩
theorem witness_TwoByteLoadArmsTimerA : (0x30#8).toNat / 16 = 3 ∧ (0x3F#8).toNat / 16 = 3 := by decide
theorem witness_TimerBArmedByBothStages : (0x74#8).toNat / 16 = 7 ∧ (0xB4#8).toNat / 16 = 11 := by decide
theorem witness_LateDataBytesDoNotRearm :
    3 ≤ sV42.chA.loadState.val ∧ ∃ s : State, 3 ≤ s.chB1.loadState.val ∧ 3 ≤ s.chB2.loadState.val :=
  ⟨by decide, { s0 with chB1 := ⟨.lowOnly, 4#4, 0#16, 3⟩, chB2 := ⟨.latch, 4#4, 0#16, 5⟩ }, by decide⟩
theorem witness_ConstructionSetsResetValues : State.unbuilt.phase = .unbuilt := by decide
theorem witness_ConstructionIsFirstAndOnce :
    (∃ (s : State) (c : Cycle), s.phase = .unbuilt ∧ s.inbox = [c] ∧ ∀ operands, c ≠ .event 0#4 operands) ∧
    (s0.phase ≠ .unbuilt ∧ ∃ t, step s0 = .next t) :=
  ⟨⟨{ s0 with phase := .unbuilt, inbox := [.event 1#4 []] }, .event 1#4 [], rfl, rfl, by simp⟩, by decide, ⟨_, rfl⟩⟩
theorem witness_GroupThreeFollowsMap :
    s0.cfg.g3Map = .unmapped ∧ ({ cfg0 with g3Map := .timerPorts } : Params).g3Map = .timerPorts := by decide
theorem witness_FiringSetsPendingIfEnabled :
    (sV42.armedA ≠ none ∧ ({ s0 with armedB := some 1500 } : State).armedB ≠ none) ∧
    (s0.armedA = none ∧ s0.armedB = none) := by decide
theorem witness_RecomputeDeliversEdges :
    (sV42.hostIrqLevel = sV42.hostActive) ∧
    (({ sV42 with pending := ⟨true, false⟩, tcr := 0xC4#8 } : State).hostIrqLevel ≠
      ({ sV42 with pending := ⟨true, false⟩, tcr := 0xC4#8 } : State).hostActive) := by decide
theorem witness_UnarmedTimerHasNoFiring : s0.armedA = none ∧ s0.armedB = none := by decide
theorem witness_HostLineIsEdgeTriggered :
    (∃ t, exec .hGetD2h sSafe = .next t) ∧ (∃ t, exec .evReset State.unbuilt = .next t) := ⟨⟨_, rfl⟩, ⟨_, rfl⟩⟩
theorem witness_StepKeepsInvariant : sSafe.Inv ∧ ∃ t, step sSafe = .next t := ⟨sSafe_inv, ⟨_, rfl⟩⟩
theorem witness_HostReachesNeitherChipNorQueue :
    (Instr.hTimerWr 0#2 1#8).format = .host ∧ ∃ t, exec (.hTimerWr 0#2 1#8) sSafe = .next t := ⟨rfl, ⟨_, rfl⟩⟩
theorem witness_QueueAndChipDoNotReachHost :
    (Instr.hTsrRd 0#2).format = .host ∧ ∃ t, exec (.hTsrRd 0#2) sSafe = .next t := ⟨rfl, ⟨_, rfl⟩⟩
theorem witness_InternalBusReachesNoHostRegister :
    (Instr.intG3Wr 0#4 1#8).format = .internal ∧ s0.cfg.g3Map = .unmapped ∧
    ∃ t, exec (.intG3Wr 0#4 1#8) s0 = .next t := ⟨rfl, rfl, ⟨_, rfl⟩⟩

end Sys2Proof.Tests
end

/-! PROOF. R7: no step changes the parameters. What each operation does to `cfg` is one `simp` lemma per operation; an
instruction ends in `complete` of such operations, and `step_eq_next` says what else a step can do. -/

namespace Sys2Proof.Machine

/-! ## The operations keep the parameters -/

@[simp] theorem State.returnInternal_cfg (s : State) (v : Byte) : (s.returnInternal v).cfg = s.cfg := rfl
@[simp] theorem State.returnHost_cfg (s : State) (v : Byte) : (s.returnHost v).cfg = s.cfg := rfl
@[simp] theorem State.callChip_cfg (s : State) (c : ChipCall) : (s.callChip c).cfg = s.cfg := rfl
@[simp] theorem State.log_cfg (s : State) (d : Diag) : (s.log d).cfg = s.cfg := rfl

@[simp] theorem State.recomputeHostIrq_cfg (s : State) : s.recomputeHostIrq.cfg = s.cfg := by
  rw [State.recomputeHostIrq_eq_settled, settled_cfg]

@[simp] theorem State.put_cfg (s : State) (c : Chan) (b : Byte) : (s.put c b).cfg = s.cfg := by
  simp [State.put]

@[simp] theorem State.setRxInterruptEnabled_cfg (s : State) (c : Chan) (e : Bool) :
    (s.setRxInterruptEnabled c e).cfg = s.cfg := by
  simp [State.setRxInterruptEnabled]

@[simp] theorem State.setTxInterruptEnabled_cfg (s : State) (c : Chan) (e : Bool) :
    (s.setTxInterruptEnabled c e).cfg = s.cfg := by
  simp [State.setTxInterruptEnabled]

@[simp] theorem State.enqueue_cfg (s : State) (bytes : List Byte) : (s.enqueue bytes).cfg = s.cfg := rfl
@[simp] theorem State.setQueueMode_cfg (s : State) (v : Byte) : (s.setQueueMode v).cfg = s.cfg := rfl

@[simp] theorem State.schedule_cfg (s : State) (t : TimerId) (p : Rat) : (s.schedule t p).cfg = s.cfg := by
  simp [State.schedule]

@[simp] theorem State.cancel_cfg (s : State) (t : TimerId) : (s.cancel t).cfg = s.cfg := by
  simp [State.cancel]

@[simp] theorem State.loadCompleteB_cfg (s : State) : s.loadCompleteB.cfg = s.cfg := by
  unfold State.loadCompleteB
  split
  · exact State.schedule_cfg ..
  · rfl

@[simp] theorem State.loadComplete_cfg (s : State) (c : ChannelId) : (s.loadComplete c).cfg = s.cfg := by
  cases c with
  | a => exact State.schedule_cfg ..
  | b1 | b2 => exact s.loadCompleteB_cfg

@[simp] theorem State.dataWrite_cfg (s : State) (c : ChannelId) (v : Byte) : (s.dataWrite c v).cfg = s.cfg := by
  rw [State.dataWrite_cases]
  dsimp only
  split <;> simp

@[simp] theorem State.programChannel_cfg (s : State) (c : ChannelId) (v : Byte) :
    (s.programChannel c v).cfg = s.cfg := by
  unfold State.programChannel
  dsimp only
  split <;> simp

@[simp] theorem State.controlWrite_cfg (s : State) (v : Byte) : (s.controlWrite v).cfg = s.cfg := by
  unfold State.controlWrite
  split
  · exact State.programChannel_cfg ..
  · rfl

@[simp] theorem State.timerWrite_cfg (s : State) (p : BitVec 2) (v : Byte) : (s.timerWrite p v).cfg = s.cfg := by
  unfold State.timerWrite
  split
  · exact State.dataWrite_cfg ..
  · exact State.controlWrite_cfg ..

@[simp] theorem State.fire_cfg (s : State) (t : TimerId) : (s.fire t).cfg = s.cfg := by
  cases t <;> rfl

@[simp] theorem State.tearDown_cfg (s : State) : s.tearDown.cfg = s.cfg := rfl
@[simp] theorem State.construct_cfg (s : State) : s.construct.cfg = s.cfg := rfl

/-! ## The instructions keep the parameters -/

/-- A transaction that completes in `u` leaves the parameters of `u`. -/
theorem complete_keeps_cfg {s u t : State} (h : complete u = .next t) (hu : u.cfg = s.cfg) : t.cfg = s.cfg := by
  obtain rfl : settled u = t := Host.Outcome.next.inj ((complete_eq u).symm.trans h)
  rw [settled_cfg, hu]

theorem fireIfArmed_keeps_cfg {i : TimerId} {s t : State} (h : fireIfArmed i s = .next t) : t.cfg = s.cfg := by
  unfold fireIfArmed at h
  split at h
  · exact absurd h (by simp)
  · exact complete_keeps_cfg h (s.fire_cfg i)

/-- A queue read keeps the parameters whether it finds a byte or draws one (R267). -/
theorem execIntQDataRd_keeps_cfg (sss : BitVec 3) {s t : State} (h : execIntQDataRd sss s = .next t) :
    t.cfg = s.cfg := by
  unfold execIntQDataRd at h
  cases hq : s.queue with
  | nil =>
    rw [State.dequeueOne_nil s hq] at h
    exact complete_keeps_cfg h rfl
  | cons b rest =>
    rw [State.dequeueOne_cons s hq] at h
    exact complete_keeps_cfg h rfl

/-- Construction takes over the parameters of the session it begins (R400, R7). -/
theorem execEvReset_keeps_cfg {s t : State} (h : execEvReset s = .next t) : t.cfg = s.cfg := by
  unfold execEvReset at h
  split at h
  · exact complete_keeps_cfg h s.construct_cfg
  · exact absurd h (by simp)
  · exact absurd h (by simp)

/-- Whatever an instruction does, the parameters stay. The named cases are those that choose between several states, or
that may have no next state; every other instruction completes in one state. -/
theorem exec_keeps_cfg {i : Instr} {s t : State} (h : exec i s = .next t) : t.cfg = s.cfg := by
  cases i with
  | intQDataRd sss => exact execIntQDataRd_keeps_cfg sss h
  | evReset => exact execEvReset_keeps_cfg h
  | evFireA | evFireB => exact fireIfArmed_keeps_cfg h
  | intQDataWr _ _ | intG3Rd _ | intG3Wr _ _ =>
    refine complete_keeps_cfg h ?_
    split <;> simp
  | intHsCtrlWr _ | hCtrlWr _ =>
    refine complete_keeps_cfg h ?_
    split_ifs <;> simp
  | _ => exact complete_keeps_cfg h (by simp)

/-! ## The step keeps the parameters -/

/-- Settles O14: a step does nothing, takes an item, tears down, runs one instruction or constructs, and each of these
keeps the parameters. -/
theorem parametersNeverChange : Obligations.ParametersNeverChange := by
  intro s t h
  obtain ⟨-, -, rfl⟩ | ⟨_, rest, -, ⟨-, rfl | rfl | ⟨i, hi⟩⟩ | ⟨-, rfl⟩⟩ := step_eq_next h
  · rfl
  · rfl
  · exact State.tearDown_cfg _
  · have hcfg : t.cfg = ({ s with inbox := rest } : State).cfg := exec_keeps_cfg hi
    exact hcfg
  · exact State.construct_cfg _

end Sys2Proof.Machine

/-! PROOF. R34, R35: what an instruction makes of the two channels, said once (`channelsAfter`); who writes an enable
and who writes `ready` is read off it. A timer write reaches only what `State.offTimers` leaves out. -/

namespace Sys2Proof.Machine

/-! ## Which instructions complete, and in what -/

theorem complete_eq_next {u t : State} : complete u = .next t ↔ t = settled u := by
  rw [complete_eq, Host.Outcome.next.injEq, eq_comm]

/-- Only an armed timer fires (R222). -/
theorem fireIfArmed_eq_next {i : TimerId} {s t : State} (h : fireIfArmed i s = .next t) : t = settled (s.fire i) := by
  unfold fireIfArmed at h
  split at h
  · exact absurd h (by simp)
  · exact complete_eq_next.mp h

/-- Only a session not yet begun is constructed (R400). -/
theorem execEvReset_eq_next {s t : State} (h : execEvReset s = .next t) :
    s.phase = .unbuilt ∧ t = settled s.construct := by
  unfold execEvReset at h
  split at h
  next hp => exact ⟨hp, complete_eq_next.mp h⟩
  all_goals exact absurd h (by simp)

/-- A queue read removes the oldest byte, if there is one, and returns a byte, drawn if there is none (R267). -/
theorem execIntQDataRd_eq_complete (sss : BitVec 3) (s : State) : ∃ (v : Byte) (n : Nat),
    execIntQDataRd sss s = complete (({ s with queue := s.queue.tail, draws := n } : State).returnInternal v) := by
  unfold execIntQDataRd
  cases hq : s.queue with
  | nil =>
    rw [State.dequeueOne_nil s hq]
    exact ⟨Config.freeByte s.draws, s.draws + 1, by rw [List.tail_nil, ← hq]; rfl⟩
  | cons b rest =>
    rw [State.dequeueOne_cons s hq]
    exact ⟨b, s.draws, rfl⟩

/-! ## What a timer write leaves alone -/

/-- The state without what a timer write can reach: the timer channels, the callbacks, the scheduler calls and the
diagnostics. -/
def State.offTimers (s : State) : State :=
  { s with
    chA := .reset, chB1 := .reset, chB2 := .reset, armedA := none, armedB := none
    out := { s.out with schedCalls := [], diags := [] } }

@[simp] theorem State.log_offTimers (s : State) (d : Diag) : (s.log d).offTimers = s.offTimers := rfl

@[simp] theorem State.setTimer_offTimers (s : State) (c : ChannelId) (x : TimerChannel) :
    (s.setTimer c x).offTimers = s.offTimers := by
  cases c <;> rfl

@[simp] theorem State.schedule_offTimers (s : State) (t : TimerId) (p : Rat) :
    (s.schedule t p).offTimers = s.offTimers := by
  cases t <;> rfl

@[simp] theorem State.cancel_offTimers (s : State) (t : TimerId) : (s.cancel t).offTimers = s.offTimers := by
  cases t <;> rfl

theorem State.loadCompleteB_offTimers (s : State) : s.loadCompleteB.offTimers = s.offTimers := by
  unfold State.loadCompleteB
  split
  · exact State.schedule_offTimers ..
  · rfl

@[simp] theorem State.loadComplete_offTimers (s : State) (c : ChannelId) :
    (s.loadComplete c).offTimers = s.offTimers := by
  cases c with
  | a => exact State.schedule_offTimers ..
  | b1 | b2 => exact s.loadCompleteB_offTimers

theorem State.dataWrite_offTimers (s : State) (c : ChannelId) (v : Byte) :
    (s.dataWrite c v).offTimers = s.offTimers := by
  rw [State.dataWrite_cases]
  dsimp only
  split <;> simp

theorem State.programChannel_offTimers (s : State) (c : ChannelId) (v : Byte) :
    (s.programChannel c v).offTimers = s.offTimers := by
  unfold State.programChannel
  dsimp only
  split <;> simp

theorem State.controlWrite_offTimers (s : State) (v : Byte) : (s.controlWrite v).offTimers = s.offTimers := by
  unfold State.controlWrite
  split
  · exact State.programChannel_offTimers ..
  · exact State.log_offTimers ..

theorem State.timerWrite_offTimers (s : State) (p : BitVec 2) (v : Byte) :
    (s.timerWrite p v).offTimers = s.offTimers := by
  unfold State.timerWrite
  split
  · exact State.dataWrite_offTimers ..
  · exact State.controlWrite_offTimers ..

@[simp] theorem State.timerWrite_h2d (s : State) (p : BitVec 2) (v : Byte) : (s.timerWrite p v).h2d = s.h2d :=
  (congrArg State.h2d (s.timerWrite_offTimers p v) :)
@[simp] theorem State.timerWrite_d2h (s : State) (p : BitVec 2) (v : Byte) : (s.timerWrite p v).d2h = s.d2h :=
  (congrArg State.d2h (s.timerWrite_offTimers p v) :)
@[simp] theorem State.timerWrite_queue (s : State) (p : BitVec 2) (v : Byte) : (s.timerWrite p v).queue = s.queue :=
  (congrArg State.queue (s.timerWrite_offTimers p v) :)
@[simp] theorem State.timerWrite_tcr (s : State) (p : BitVec 2) (v : Byte) : (s.timerWrite p v).tcr = s.tcr :=
  (congrArg State.tcr (s.timerWrite_offTimers p v) :)
@[simp] theorem State.timerWrite_pending (s : State) (p : BitVec 2) (v : Byte) :
    (s.timerWrite p v).pending = s.pending :=
  (congrArg State.pending (s.timerWrite_offTimers p v) :)
@[simp] theorem State.timerWrite_phase (s : State) (p : BitVec 2) (v : Byte) : (s.timerWrite p v).phase = s.phase :=
  (congrArg State.phase (s.timerWrite_offTimers p v) :)
@[simp] theorem State.timerWrite_hostIrqLevel (s : State) (p : BitVec 2) (v : Byte) :
    (s.timerWrite p v).hostIrqLevel = s.hostIrqLevel :=
  (congrArg State.hostIrqLevel (s.timerWrite_offTimers p v) :)
@[simp] theorem State.timerWrite_irqEdges (s : State) (p : BitVec 2) (v : Byte) :
    (s.timerWrite p v).out.irqEdges = s.out.irqEdges :=
  (congrArg (fun u : State => u.out.irqEdges) (s.timerWrite_offTimers p v) :)

/-! ## What an instruction makes of the channels -/

@[simp] theorem State.recomputeHostIrq_h2d (s : State) : s.recomputeHostIrq.h2d = s.h2d := by
  rw [State.recomputeHostIrq_eq_settled, settled_h2d]

@[simp] theorem State.recomputeHostIrq_d2h (s : State) : s.recomputeHostIrq.d2h = s.d2h := by
  rw [State.recomputeHostIrq_eq_settled, settled_d2h]

@[simp] theorem State.fire_h2d (s : State) (t : TimerId) : (s.fire t).h2d = s.h2d := by cases t <;> rfl
@[simp] theorem State.fire_d2h (s : State) (t : TimerId) : (s.fire t).d2h = s.d2h := by cases t <;> rfl

/-- `h2d` and `d2h` after an instruction that completes: the puts, the gets, the control words (R107) and construction
are the writers. -/
def channelsAfter (i : Instr) (s : State) : Channel × Channel :=
  match i with
  | .hPutH2d v => ({ s.h2d with value := v, ready := true }, s.d2h)
  | .intHsPutD2h v => (s.h2d, { s.d2h with value := v, ready := true })
  | .intHsGetH2d => ({ s.h2d with ready := false }, s.d2h)
  | .hGetD2h => (s.h2d, { s.d2h with ready := false })
  | .intHsCtrlWr v =>
    ({ s.h2d with
        rxEn := if controlSel s.cfg v = s.cfg.hsPos.h2dRxEn then controlVal s.cfg v else s.h2d.rxEn },
     { s.d2h with
        txEn := if controlSel s.cfg v ≠ s.cfg.hsPos.h2dRxEn ∧ controlSel s.cfg v = s.cfg.hsPos.d2hTxEn
          then controlVal s.cfg v else s.d2h.txEn })
  | .hCtrlWr v =>
    ({ s.h2d with
        txEn := if controlSel s.cfg v ≠ s.cfg.hsPos.h2dRxEn ∧ controlSel s.cfg v = s.cfg.hsPos.d2hTxEn
          then controlVal s.cfg v else s.h2d.txEn },
     { s.d2h with
        rxEn := if controlSel s.cfg v = s.cfg.hsPos.h2dRxEn then controlVal s.cfg v else s.d2h.rxEn })
  | .evReset => (.reset, .reset)
  | _ => (s.h2d, s.d2h)

/-- A transaction that completes in `u` leaves the channels of `u`. -/
theorem complete_channels {u t : State} {x : Channel × Channel} (h : complete u = .next t)
    (hu : u.h2d = x.1 ∧ u.d2h = x.2) : t.h2d = x.1 ∧ t.d2h = x.2 := by
  rwa [complete_eq_next.mp h, settled_h2d, settled_d2h]

/-- `channelsAfter` says what `exec` does. After the writers of the channels come the instructions that choose between
several states or reach the timers; every other completes in one state whose channels are those before. -/
theorem exec_channels {i : Instr} {s t : State} (h : exec i s = .next t) :
    t.h2d = (channelsAfter i s).1 ∧ t.d2h = (channelsAfter i s).2 := by
  cases i with
  | hPutH2d v | intHsPutD2h v => exact complete_channels h (by simp [State.put, channelsAfter])
  | intHsGetH2d | hGetD2h =>
    exact complete_channels h (by simp [State.returnInternal, State.returnHost, channelsAfter])
  | intHsCtrlWr v | hCtrlWr v =>
    refine complete_channels h ?_
    split_ifs <;> simp_all [State.setRxInterruptEnabled, State.setTxInterruptEnabled, State.log, channelsAfter]
  | evReset =>
    obtain ⟨-, rfl⟩ := execEvReset_eq_next h
    exact ⟨rfl, rfl⟩
  | evFireA | evFireB =>
    rw [fireIfArmed_eq_next h]
    simp [channelsAfter]
  | intQDataRd sss =>
    obtain ⟨v, n, hc⟩ := execIntQDataRd_eq_complete sss s
    exact complete_channels (hc.symm.trans h) ⟨rfl, rfl⟩
  | intG3Rd _ | intQDataWr _ _ =>
    refine complete_channels h ?_
    split <;> exact ⟨rfl, rfl⟩
  | intG3Wr _ _ =>
    refine complete_channels h ?_
    split
    · exact ⟨rfl, rfl⟩
    · simp [channelsAfter]
  | hTimerWr _ _ | hTcrWr _ _ => exact complete_channels h (by simp [channelsAfter])
  | _ => exact complete_channels h ⟨rfl, rfl⟩

/-! ## The writers of the enables and of `ready` -/

/-- Settles O22: apart from construction only the control words write an enable, each its own two. -/
theorem enableFlagsHaveOneWriter : Obligations.EnableFlagsHaveOneWriter := by
  intro i s t h hi
  obtain ⟨hh, hd⟩ := exec_channels h
  rw [hh, hd]
  cases i with
  | evReset => exact absurd rfl hi
  | _ => simp [channelsAfter]

/-- Settles O23: the control words keep `ready`, and of the others only puts, gets and construction write a channel. -/
theorem readySetByPutClearedByGet : Obligations.ReadySetByPutClearedByGet := by
  intro i s t h
  obtain ⟨hh, hd⟩ := exec_channels h
  rw [hh, hd]
  cases i with
  | evReset => simp [channelsAfter, Channel.reset]
  | _ => simp [channelsAfter]

end Sys2Proof.Machine

/-! PROOF. The invariant of a safe state. Every transaction ends by settling the host line, so the invariant splits: all
clauses but the line's (`State.Settleable`) are kept by each operation on its own, and settling such a state makes it
safe. The timer clauses are stated over all channels at once (`State.TimersSafe`), so one argument serves A, B1, B2. -/

namespace Sys2Proof.Machine

/-! ## Further reads after the indexed updates -/

@[simp] theorem State.timer_withOut (s : State) (o : Outputs) (c : ChannelId) : (s.withOut o).timer c = s.timer c := by
  cases c <;> rfl

@[simp] theorem State.timer_setArmed (s : State) (t : TimerId) (p : Option Rat) (c : ChannelId) :
    (s.setArmed t p).timer c = s.timer c := by
  cases c <;> simp

@[simp] theorem State.armed_withOut (s : State) (o : Outputs) (t : TimerId) : (s.withOut o).armed t = s.armed t := by
  cases t <;> rfl

@[simp] theorem State.armed_setTimer (s : State) (c : ChannelId) (x : TimerChannel) (t : TimerId) :
    (s.setTimer c x).armed t = s.armed t := by
  cases t <;> simp

theorem State.timer_setTimer_eq_ite (s : State) (c d : ChannelId) (x : TimerChannel) :
    (s.setTimer c x).timer d = if d = c then x else s.timer d := by
  split
  next h => rw [h, State.timer_setTimer]
  next h => exact State.timer_setTimer_of_ne s x (Ne.symm h)

theorem State.armed_setArmed_eq_ite (s : State) (t u : TimerId) (p : Option Rat) :
    (s.setArmed t p).armed u = if u = t then p else s.armed u := by
  cases t <;> cases u <;> rfl

/-- The channels and the callbacks are apart. -/
theorem State.cancel_setTimer (s : State) (c : ChannelId) (x : TimerChannel) (t : TimerId) :
    (s.setTimer c x).cancel t = (s.cancel t).setTimer c x := by
  cases c <;> cases t <;> rfl

@[simp] theorem State.armed_cancel (s : State) (t : TimerId) : (s.cancel t).armed t = none := by
  cases t <;> rfl

/-! ## The timers -/

/-- The bounds of R218 on a period of each timer. -/
def PeriodWithin (cfg : Params) : TimerId → Rat → Prop
  | .a, p => 1000 / cfg.clkA ≤ p ∧ p ≤ 65536000 / cfg.clkA
  | .b, p => 1000 / cfg.clkB ≤ p ∧ p ≤ 2 ^ 32 * 1000 / cfg.clkB

/-- Every channel of timer `t` has completed a load (R214). -/
def State.Loaded (s : State) (t : TimerId) : Prop := ∀ c, timerOf c = t → 3 ≤ (s.timer c).loadState.val

theorem State.loaded_a {s : State} : s.Loaded .a ↔ 3 ≤ s.chA.loadState.val :=
  ⟨fun h => h .a rfl, fun h c hc => by
    cases c with
    | a => exact h
    | b1 | b2 => cases hc⟩

theorem State.loaded_b {s : State} : s.Loaded .b ↔ 3 ≤ s.chB1.loadState.val ∧ 3 ≤ s.chB2.loadState.val :=
  ⟨fun h => ⟨h .b1 rfl, h .b2 rfl⟩, fun h c hc => by
    cases c with
    | a => cases hc
    | b1 => exact h.1
    | b2 => exact h.2⟩

/-- The clauses of `State.Inv` about the timers. -/
structure State.TimersSafe (s : State) : Prop where
  lowThenHigh : ∀ c, (s.timer c).access = .lowThenHigh → 1 ≤ (s.timer c).loadState.val
  armed_loaded : ∀ t p, s.armed t = some p → s.Loaded t ∧ PeriodWithin s.cfg t p

namespace State.TimersSafe

variable {s : State}

theorem withOut (h : s.TimersSafe) (o : Outputs) : (s.withOut o).TimersSafe := ⟨h.lowThenHigh, h.armed_loaded⟩

/-- A channel may be replaced by one that is as far in its load as long as its timer is armed. -/
theorem setTimer (h : s.TimersSafe) {c : ChannelId} {x : TimerChannel}
    (hx : x.access = .lowThenHigh → 1 ≤ x.loadState.val)
    (hl : ∀ p, s.armed (timerOf c) = some p → 3 ≤ x.loadState.val) : (s.setTimer c x).TimersSafe where
  lowThenHigh d := by
    rw [State.timer_setTimer_eq_ite]
    split
    · exact hx
    · exact h.lowThenHigh d
  armed_loaded t p hp := by
    rw [State.armed_setTimer] at hp
    obtain ⟨hload, hper⟩ := h.armed_loaded t p hp
    refine ⟨fun d hd => ?_, by rwa [State.setTimer_cfg]⟩
    rw [State.timer_setTimer_eq_ite]
    split
    next hdc =>
      subst hdc hd
      exact hl p hp
    next => exact hload d hd

theorem setArmed (h : s.TimersSafe) {t : TimerId} {q : Option Rat}
    (hq : ∀ p, q = some p → s.Loaded t ∧ PeriodWithin s.cfg t p) : (s.setArmed t q).TimersSafe where
  lowThenHigh d := by
    rw [State.timer_setArmed]
    exact h.lowThenHigh d
  armed_loaded u p hp := by
    simp only [State.Loaded, State.timer_setArmed, State.setArmed_cfg]
    rw [State.armed_setArmed_eq_ite] at hp
    split at hp
    next hut => exact hut ▸ hq p hp
    next => exact h.armed_loaded u p hp

theorem schedule (h : s.TimersSafe) {t : TimerId} {p : Rat} (hl : s.Loaded t) (hp : PeriodWithin s.cfg t p) :
    (s.schedule t p).TimersSafe :=
  (h.setArmed fun _ e => Option.some.inj e ▸ ⟨hl, hp⟩).withOut _

theorem cancel (h : s.TimersSafe) (t : TimerId) : (s.cancel t).TimersSafe :=
  (h.setArmed (by simp)).withOut _

end State.TimersSafe

/-! ## Periods -/

/-- R218 for Timer A: between 1 and 65536 clocks. -/
theorem periodWithin_a {cfg : Params} (h : cfg.Wf) (l : LatchWord) :
    PeriodWithin cfg .a (1000 / cfg.clkA * (reload l : Rat)) := by
  have hx : 0 ≤ 1000 / cfg.clkA := div_nonneg (by norm_num) h.clkA_pos.le
  have hlo : (1 : Rat) ≤ reload l := by exact_mod_cast (reload_bounds l).1
  have hhi : (reload l : Rat) ≤ 65536 := by exact_mod_cast (reload_bounds l).2
  refine ⟨le_mul_of_one_le_right hx hlo, ?_⟩
  calc 1000 / cfg.clkA * (reload l : Rat) ≤ 1000 / cfg.clkA * 65536 := mul_le_mul_of_nonneg_left hhi hx
    _ = 65536000 / cfg.clkA := by ring

/-- R218 for Timer B: between 1 and 2³² clocks. -/
theorem periodWithin_b {cfg : Params} (h : cfg.Wf) (l m : LatchWord) :
    PeriodWithin cfg .b (1000 / cfg.clkB * (reload l : Rat) * (reload m : Rat)) := by
  have hx : 0 ≤ 1000 / cfg.clkB := div_nonneg (by norm_num) h.clkB_pos.le
  have hlo : (1 : Rat) ≤ reload l * reload m := by
    exact_mod_cast Nat.mul_le_mul (reload_bounds l).1 (reload_bounds m).1
  have hhi : (reload l * reload m : Rat) ≤ 2 ^ 32 := by
    exact_mod_cast Nat.mul_le_mul (reload_bounds l).2 (reload_bounds m).2
  rw [mul_assoc]
  refine ⟨le_mul_of_one_le_right hx hlo, ?_⟩
  calc 1000 / cfg.clkB * (reload l * reload m : Rat) ≤ 1000 / cfg.clkB * 2 ^ 32 := mul_le_mul_of_nonneg_left hhi hx
    _ = 2 ^ 32 * 1000 / cfg.clkB := by ring

/-! ## Timer writes keep the timers safe -/

theorem one_le_nextLoad (old : Fin 6) : 1 ≤ (nextLoad old).val := by
  rw [nextLoad_val]
  split <;> omega

/-- Where a control word starts under `LowThenHigh` (R211). -/
theorem one_le_initLoad {m : AccessMode} (h : m = .lowThenHigh) : 1 ≤ (initLoad m).val := by
  subst h
  decide

namespace State.TimersSafe

variable {s : State}

theorem loadCompleteB (h : s.TimersSafe) (hw : s.cfg.Wf) : s.loadCompleteB.TimersSafe := by
  unfold State.loadCompleteB
  split
  next hl => exact h.schedule (State.loaded_b.mpr hl) (periodWithin_b hw _ _)
  next => exact h

theorem loadComplete (h : s.TimersSafe) (hw : s.cfg.Wf) {c : ChannelId} (hc : 3 ≤ (s.timer c).loadState.val) :
    (s.loadComplete c).TimersSafe := by
  cases c with
  | a => exact h.schedule (State.loaded_a.mpr hc) (periodWithin_a hw _)
  | b1 | b2 => exact h.loadCompleteB hw

theorem dataWrite (h : s.TimersSafe) (hw : s.cfg.Wf) (c : ChannelId) (v : Byte) : (s.dataWrite c v).TimersSafe := by
  rw [State.dataWrite_cases]
  dsimp only
  have h' := h.setTimer (c := c) (x := { s.timer c with
      latch := mergeLatch (s.timer c).access (s.timer c).loadState (s.timer c).latch v
      loadState := nextLoad (s.timer c).loadState })
    (fun _ => one_le_nextLoad _) (fun p hp => three_le_nextLoad ((h.armed_loaded _ p hp).1 c rfl))
  split
  next h2 =>
    refine h'.loadComplete (by rwa [State.setTimer_cfg]) ?_
    rw [State.timer_setTimer]
    exact (congrArg Fin.val ((nextLoad_eq_three _).mpr h2)).ge
  next => exact h'

theorem programChannel (h : s.TimersSafe) (c : ChannelId) (v : Byte) : (s.programChannel c v).TimersSafe := by
  unfold State.programChannel
  dsimp only
  rw [State.cancel_setTimer]
  have h' := (h.cancel (timerOf c)).setTimer (c := c) (x := { s.timer c with
      access := timerAccess v, opMode := timerOpMode v, loadState := initLoad (timerAccess v) })
    one_le_initLoad (by simp)
  split
  · exact h'
  · exact h'.withOut _

theorem controlWrite (h : s.TimersSafe) (v : Byte) : (s.controlWrite v).TimersSafe := by
  unfold State.controlWrite
  split
  · exact h.programChannel _ v
  · exact h.withOut _

theorem timerWrite (h : s.TimersSafe) (hw : s.cfg.Wf) (p : BitVec 2) (v : Byte) : (s.timerWrite p v).TimersSafe := by
  unfold State.timerWrite
  split
  · exact h.dataWrite hw _ v
  · exact h.controlWrite v

end State.TimersSafe

/-! ## The invariant but for the line -/

/-- The clauses of `State.Inv` that an operation keeps before the host line is settled, in a constructed device. -/
structure State.Settleable (s : State) : Prop extends s.TimersSafe where
  cfg_wf : s.cfg.Wf
  built : s.phase ≠ .unbuilt
  queue_le : s.queue.length ≤ queueCapacity
  pendingA_enabled : s.pending.a = true → tcrEnA s.tcr = true
  pendingB_enabled : s.pending.b = true → tcrEnB s.tcr = true
  edges_alternate : replayEdges false s.out.irqEdges = some s.hostIrqLevel

/-- An edge that is a transition continues an alternating sequence. -/
theorem replayEdges_concat {l m e : Bool} {es : List Bool} (h : replayEdges l es = some m) (he : e ≠ m) :
    replayEdges l (es ++ [e]) = some e := by
  induction es generalizing l with
  | nil =>
    obtain rfl : l = m := Option.some.inj h
    simp [replayEdges, he]
  | cons x xs ih =>
    simp only [replayEdges, List.cons_append] at h ⊢
    split at h
    · exact absurd h (by simp)
    next hx => rw [if_neg hx, ih h]

theorem State.Inv.settleable {s : State} (h : s.Inv) (hb : s.phase ≠ .unbuilt) : s.Settleable where
  cfg_wf := h.cfg_wf
  built := hb
  queue_le := h.queue_le
  pendingA_enabled := h.pendingA_enabled
  pendingB_enabled := h.pendingB_enabled
  edges_alternate := h.edges_alternate
  lowThenHigh
    | .a => h.lowThenHighA
    | .b1 => h.lowThenHighB1
    | .b2 => h.lowThenHighB2
  armed_loaded
    | .a, p, hp =>
      have ⟨hl, hper⟩ := h.armedA_loaded p hp
      ⟨loaded_a.mpr hl, hper⟩
    | .b, p, hp =>
      have ⟨hl1, hl2, hper⟩ := h.armedB_loaded p hp
      ⟨loaded_b.mpr ⟨hl1, hl2⟩, hper⟩

namespace State.Settleable

variable {s : State}

/-- With the line at the active condition the state is safe. -/
theorem inv (h : s.Settleable) (hl : s.hostIrqLevel = s.hostActive) : s.Inv where
  cfg_wf := h.cfg_wf
  unbuilt_silent hb := absurd hb h.built
  queue_le := h.queue_le
  pendingA_enabled := h.pendingA_enabled
  pendingB_enabled := h.pendingB_enabled
  line_settled := hl
  edges_alternate := h.edges_alternate
  lowThenHighA := h.lowThenHigh .a
  lowThenHighB1 := h.lowThenHigh .b1
  lowThenHighB2 := h.lowThenHigh .b2
  armedA_loaded p hp :=
    have ⟨hl, hper⟩ := h.armed_loaded .a p hp
    ⟨State.loaded_a.mp hl, hper⟩
  armedB_loaded p hp :=
    have ⟨hl, hper⟩ := h.armed_loaded .b p hp
    have ⟨hl1, hl2⟩ := State.loaded_b.mp hl
    ⟨hl1, hl2, hper⟩

/-- Settling emits an edge exactly on a transition, so the edges go on alternating (R363, R365). -/
theorem settled (h : s.Settleable) : (settled s).Settleable where
  __ := h
  edges_alternate := by
    rw [settled_irqEdges, settled_hostIrqLevel]
    split
    next ha => rw [List.append_nil, h.edges_alternate, ha]
    next ha => exact replayEdges_concat h.edges_alternate ha

theorem inv_settled (h : s.Settleable) : (Machine.settled s).Inv := h.settled.inv rfl

/-- A transaction that completes in a settleable state leaves a safe one. -/
theorem inv_of_complete {t : State} (h : s.Settleable) (hc : complete s = .next t) : t.Inv :=
  complete_eq_next.mp hc ▸ h.inv_settled

theorem recomputeHostIrq (h : s.Settleable) : s.recomputeHostIrq.Settleable :=
  s.recomputeHostIrq_eq_settled ▸ h.settled

/-- What the clauses do not speak of: the channels, the extra-flag, the chip level, the queue's command register, the
outputs but for the edges, the inbox and the draws. -/
theorem congr {t : State} (h : s.Settleable) (ht : t = { s with
    h2d := t.h2d, d2h := t.d2h, extra := t.extra, chipIrq := t.chipIrq, queueMode := t.queueMode, inbox := t.inbox
    draws := t.draws, out := { t.out with irqEdges := s.out.irqEdges } }) : t.Settleable := by
  rw [ht]
  exact { h with }

/-- Every write to a channel ends in a recomputation (R150-R154). -/
theorem setChan (h : s.Settleable) (c : Chan) (x : Channel) : (s.setChan c x).recomputeHostIrq.Settleable :=
  recomputeHostIrq (h.congr (by cases c <;> rfl))

theorem withQueue (h : s.Settleable) {q : List Byte} (hq : q.length ≤ queueCapacity) :
    ({ s with queue := q } : State).Settleable :=
  { h with queue_le := hq }

theorem enqueue (h : s.Settleable) (bytes : List Byte) : (s.enqueue bytes).Settleable :=
  h.withQueue (s.enqueue_length_le bytes h.queue_le)

theorem withPending (h : s.Settleable) {v : Byte} {p : PendingBits} (ha : p.a = true → tcrEnA v = true)
    (hb : p.b = true → tcrEnB v = true) : ({ s with tcr := v, pending := p } : State).Settleable :=
  { h with pendingA_enabled := ha, pendingB_enabled := hb }

/-- A firing sets a pending bit only while its enable is set (R219, R220). -/
theorem fire (h : s.Settleable) (t : TimerId) : (s.fire t).Settleable := by
  cases t with
  | a => exact h.withPending (fun hp => (Bool.or_eq_true_iff.mp hp).elim h.pendingA_enabled id) h.pendingB_enabled
  | b => exact h.withPending h.pendingA_enabled fun hp => (Bool.or_eq_true_iff.mp hp).elim h.pendingB_enabled id

theorem timerWrite (h : s.Settleable) (p : BitVec 2) (v : Byte) : (s.timerWrite p v).Settleable where
  cfg_wf := by simpa using h.cfg_wf
  built := by simpa using h.built
  queue_le := by simpa using h.queue_le
  pendingA_enabled := by simpa using h.pendingA_enabled
  pendingB_enabled := by simpa using h.pendingB_enabled
  edges_alternate := by simpa using h.edges_alternate
  toTimersSafe := h.toTimersSafe.timerWrite h.cfg_wf p v

/-- Teardown removes the callbacks (R403). -/
theorem tearDown (h : s.Settleable) : s.tearDown.Settleable :=
  { h with
    built := by simp [State.tearDown]
    armed_loaded := fun t p hp => by cases t <;> cases hp }

end State.Settleable

/-- Construction of a session in which nothing has been put out. -/
theorem State.construct_settleable {s : State} (hw : s.cfg.Wf) (ho : s.out = .empty) : s.construct.Settleable where
  cfg_wf := hw
  built := by simp [State.construct, State.reset]
  queue_le := by simp [State.construct, State.reset]
  pendingA_enabled := by simp [State.construct, State.reset]
  pendingB_enabled := by simp [State.construct, State.reset]
  edges_alternate := by simp [State.construct, State.reset, ho, Outputs.empty, replayEdges]
  lowThenHigh c hc := by cases c <;> cases hc
  armed_loaded t p hp := by cases t <;> cases hp

/-! ## Every instruction and every step keeps the invariant -/

/-- An instruction that completes leaves a safe state. The default case is that of the instructions that write nothing
the invariant speaks of. -/
theorem exec_keeps_inv {i : Instr} {s t : State} (hs : s.Settleable) (h : exec i s = .next t) : t.Inv := by
  cases i with
  | hPutH2d _ | intHsPutD2h _ => exact (hs.setChan _ _).inv_of_complete h
  | intHsGetH2d | hGetD2h => exact ((hs.setChan _ _).congr rfl).inv_of_complete h
  | intHsCtrlWr _ =>
    refine State.Settleable.inv_of_complete ?_ h
    split_ifs
    · exact hs.setChan _ _
    · exact hs.setChan _ _
    · exact hs.congr rfl
    · exact hs.congr rfl
  | hCtrlWr _ =>
    refine State.Settleable.inv_of_complete ?_ h
    split_ifs
    · exact hs.setChan _ _
    · exact hs.setChan _ _
    · exact hs.congr rfl
  | evReset => exact absurd (execEvReset_eq_next h).1 hs.built
  | evFireA | evFireB => exact fireIfArmed_eq_next h ▸ (hs.fire _).inv_settled
  | evEnqueue bytes => exact (hs.enqueue bytes).inv_of_complete h
  | intQDataRd sss =>
    obtain ⟨v, n, hc⟩ := execIntQDataRd_eq_complete sss s
    have hq : s.queue.tail.length ≤ queueCapacity := by
      rw [List.length_tail]
      exact (Nat.sub_le _ _).trans hs.queue_le
    exact ((hs.withQueue hq).congr rfl).inv_of_complete (hc.symm.trans h)
  | intQDataWr _ _ =>
    refine State.Settleable.inv_of_complete ?_ h
    split
    · exact hs.congr rfl
    · exact hs.enqueue _
  | intG3Rd _ =>
    refine State.Settleable.inv_of_complete ?_ h
    split <;> exact hs.congr rfl
  | intG3Wr _ _ =>
    refine State.Settleable.inv_of_complete ?_ h
    split
    · exact hs.congr rfl
    · exact hs.timerWrite _ _
  | hTimerWr p v => exact (hs.timerWrite p v).inv_of_complete h
  | hTcrWr _ v =>
    have hp : ∀ {a b : Bool}, (a && b) = true → b = true := fun h => (Bool.and_eq_true_iff.mp h).2
    exact (hs.withPending hp hp).recomputeHostIrq.inv_of_complete h
  | _ => exact (hs.congr rfl).inv_of_complete h

/-- Settles O57: over everything a step can do. A step of a running device starts from a settleable state; construction
starts from a session in which nothing has been put out. -/
theorem stepKeepsInvariant : Obligations.StepKeepsInvariant := by
  intro s t hs h
  obtain ⟨-, -, rfl⟩ | ⟨_, rest, -, ⟨hp, hr⟩ | ⟨hp, rfl⟩⟩ := step_eq_next h
  · exact hs
  · have hb : s.phase ≠ .unbuilt := by simp [hp]
    have hu : ({ s with inbox := rest } : State).Settleable := (hs.settleable hb).congr rfl
    obtain rfl | rfl | ⟨i, hi⟩ := hr
    · exact hu.inv hs.line_settled
    · exact hu.tearDown.inv hs.line_settled
    · exact exec_keeps_inv hu hi
  · exact (State.construct_settleable (s := { s with inbox := rest }) hs.cfg_wf (hs.unbuilt_silent hp)).inv_settled

end Sys2Proof.Machine

/-! PROOF. R72, R82: an item whose packet decodes runs its instruction, on either bus and at construction. A host access
inside the window has such a packet, one outside it has no packet. -/

namespace Sys2Proof.Machine

/-! ## A packet that decodes runs its instruction -/

theorem step_packet {s : State} {c : Cycle} {rest : List Cycle} {f : Format} {bytes : List Byte} {i : Instr}
    (hs : s.phase.stops (some c) = none) (hi : s.inbox = c :: rest) (hr : c.route s.cfg = .packet f bytes)
    (hd : decode s.cfg.qDataParity f bytes = .ok i) : step s = exec i { s with inbox := rest } := by
  rw [step_admitted hs hi, hr]
  simp only [runPacket, hd]

/-- `step_packet` for an item put at the head of the inbox of a running device. -/
theorem step_issue_packet {s : State} {c : Cycle} {f : Format} {bytes : List Byte} {i : Instr} (rest : List Cycle)
    (hs : s.phase = .running) (hr : c.route s.cfg = .packet f bytes)
    (hd : decode s.cfg.qDataParity f bytes = .ok i) :
    step { s with inbox := c :: rest } = exec i { s with inbox := rest } :=
  step_packet (s := { s with inbox := c :: rest }) (by rw [hs]; rfl) rfl hr hd

theorem encode_of_decodeBareEvent {par : Parity} {i j : Instr} {c : Byte} {operands : List Byte}
    (h : decodeBareEvent i c operands = .ok j) (hc : i.code par = c) (ho : i.operands = []) :
    encode par j = c :: operands := by
  cases operands with
  | nil => rw [← Except.ok.inj h, encode, hc, ho]
  | cons => cases h

/-- What the event decoder accepts is the packet of the event it answers (R102). -/
theorem encode_of_decodeEvent {c : Byte} {operands : List Byte} {i : Instr} (par : Parity)
    (h : decodeEvent c operands = .ok i) : encode par i = c :: operands := by
  unfold decodeEvent at h
  split_ifs at h with _ hc hc hc hc hc <;> subst hc
  · exact encode_of_decodeBareEvent h rfl rfl
  · cases h
    rfl
  · exact encode_of_decodeBareEvent h rfl rfl
  · exact encode_of_decodeBareEvent h rfl rfl
  · split at h
    · split_ifs at h with hl hl <;> subst hl <;> cases h <;> rfl
    · cases h

/-- Only an event leads to an event packet, which is its code and operands. -/
theorem eq_event_of_route {cfg : Params} {c : Cycle} {bytes : List Byte} (h : c.route cfg = .packet .event bytes) :
    ∃ code operands, c = .event code operands ∧ bytes = code.setWidth 8 :: operands := by
  unfold Cycle.route at h
  split at h
  · cases h
  cases c with
  | event code operands => exact ⟨code, operands, rfl, by cases h; rfl⟩
  | intAck | teardown => cases h
  | intRead _ | intWrite _ _ =>
    simp only [Cycle.routeRunning, routeInternal] at h
    split at h <;> cases h
  | hostRead _ | hostWrite _ _ =>
    simp only [Cycle.routeRunning, routeHost] at h
    split at h <;> cases h

/-- An item whose packet decodes to `EV_RESET` is construction. -/
theorem constructs_of_evReset {cfg : Params} {par : Parity} {c : Cycle} {bytes : List Byte}
    (hr : c.route cfg = .packet .event bytes) (hd : decode par .event bytes = .ok .evReset) : c.constructs = true := by
  obtain ⟨code, operands, rfl, rfl⟩ := eq_event_of_route hr
  have hc : 0#8 = code.setWidth 8 := (List.cons.inj (encode_of_decodeEvent par hd)).1
  obtain rfl : code = 0#4 := by bv_omega
  rfl

/-- Settles O6: the lifecycle stops neither an item of a running device nor construction before it. -/
theorem stepRunsDecodedInstruction : Obligations.StepRunsDecodedInstruction := by
  rintro s c rest f bytes i (hp | ⟨hp, rfl, rfl⟩) hi hr hd
  · exact step_packet (by rw [hp]; rfl) hi hr hd
  · have hs : Phase.unbuilt.stops (some c) = none := if_pos (constructs_of_evReset hr hd)
    exact step_packet (hp ▸ hs) hi hr hd

/-! ## The host window -/

/-- A host access outside the window leads nowhere (R72). -/
theorem routeHost_outside {cfg : Params} {addr : Nat} (w : BitVec 1) (operands : List Byte)
    (h : addr < cfg.hostBase ∨ cfg.hostBase + 16 ≤ addr) : routeHost cfg w addr operands = .elsewhere :=
  if_neg fun ⟨hlo, hhi⟩ => by simp only [hostPorts] at hhi; omega

/-- What leads nowhere only leaves the inbox. -/
theorem step_issue_elsewhere {s : State} {c : Cycle} (rest : List Cycle) (hs : s.phase = .running)
    (hr : c.route s.cfg = .elsewhere) : step { s with inbox := c :: rest } = .next { s with inbox := rest } := by
  rw [step_issue c rest hs, hr]

theorem route_hostRead (cfg : Params) (addr : Nat) : (Cycle.hostRead addr).route cfg = routeHost cfg 0#1 addr [] :=
  route_of_running (.inl rfl)

theorem route_hostWrite (cfg : Params) (addr : Nat) (v : Byte) :
    (Cycle.hostWrite addr v).route cfg = routeHost cfg 1#1 addr [v] :=
  route_of_running (.inl rfl)

/-- Settles O9: a port of the window has the packet of its sub-address, an address outside has none. -/
theorem hostWindowIsSixteenPorts : Obligations.HostWindowIsSixteenPorts := by
  intro s addr v rest hp
  refine ⟨?_, fun hout => ⟨?_, ?_⟩⟩
  · rintro k hk rfl
    exact ⟨step_issue_packet rest hp ((route_hostRead ..).trans (routeHost_of_lt 0#1 [] hk)) (decode_hostRead ..),
      step_issue_packet rest hp ((route_hostWrite ..).trans (routeHost_of_lt 1#1 [v] hk)) (decode_hostWrite ..)⟩
  · exact step_issue_elsewhere rest hp ((route_hostRead ..).trans (routeHost_outside 0#1 [] hout))
  · exact step_issue_elsewhere rest hp ((route_hostWrite ..).trans (routeHost_outside 1#1 [v] hout))

end Sys2Proof.Machine

/-! PROOF. R75, R214 to R216: the two-byte load of a timer channel. What a control word and a data byte make of the
channel they address is one equation each; the load follows by running the three transactions. -/

namespace Sys2Proof.Machine

/-! ## Runs of timer writes -/

theorem execAll_cons {i : Instr} {s t : State} (is : List Instr) (h : exec i s = .next t) :
    execAll (i :: is) s = execAll is t := by
  simp only [execAll, h]

/-- A timer port write always completes (R323). -/
theorem exec_hTimerWr (p : BitVec 2) (v : Byte) (s : State) :
    exec (.hTimerWr p v) s = .next (settled (s.timerWrite p v)) :=
  complete_eq _

@[simp] theorem settled_timer (u : State) (c : ChannelId) : (settled u).timer c = u.timer c := by cases c <;> rfl

/-! ## What a write makes of its channel -/

theorem State.programChannel_timer (s : State) (c : ChannelId) (v : Byte) :
    (s.programChannel c v).timer c = { s.timer c with
      access := timerAccess v, opMode := timerOpMode v, loadState := initLoad (timerAccess v) } := by
  unfold State.programChannel
  split <;> simp [State.cancel, State.log]

@[simp] theorem State.schedule_timer (s : State) (t : TimerId) (p : Rat) (c : ChannelId) :
    (s.schedule t p).timer c = s.timer c := by
  simp [State.schedule]

/-- What a completed load arms is read from the channels and leaves them (R216, R217). -/
@[simp] theorem State.loadComplete_timer (s : State) (c d : ChannelId) : (s.loadComplete c).timer d = s.timer d := by
  cases c with
  | a => exact State.schedule_timer ..
  | b1 | b2 =>
    simp only [State.loadComplete, State.loadCompleteB]
    split
    · exact State.schedule_timer ..
    · rfl

theorem State.dataWrite_timer (s : State) (c : ChannelId) (v : Byte) :
    (s.dataWrite c v).timer c = { s.timer c with
      latch := mergeLatch (s.timer c).access (s.timer c).loadState (s.timer c).latch v
      loadState := nextLoad (s.timer c).loadState } := by
  rw [State.dataWrite_cases]
  dsimp only
  split <;> simp

/-- The byte that completes the load of A arms Timer A with the count then in the latch (R216). -/
theorem State.dataWrite_armedA {s : State} (v : Byte) (h : s.chA.loadState.val = 2) :
    (s.dataWrite .a v).armedA = some (1000 / s.cfg.clkA * (reload ((s.dataWrite .a v).timer .a).latch : Rat)) := by
  rw [State.dataWrite_timer, State.dataWrite_cases]
  simp [h, State.loadComplete, State.loadCompleteA, State.schedule]

/-! ## The two bytes -/

/-- `SC` = 0 and `RW` = 3 select channel A for a low-then-high load (R112). -/
theorem control_lowThenHighA : ∀ v : Byte, v.toNat / 16 = 3 →
    timerSelect v = some .a ∧ timerAccess v = .lowThenHigh := by
  decide

/-- The low byte enters at loadState 1 and the high byte at 2, so nothing of the old latch is left (R215). -/
theorem mergeLatch_low_high (latch : LatchWord) (low high : Byte) :
    mergeLatch .lowThenHigh 2 (mergeLatch .lowThenHigh 1 latch low) high = high ++ low := by
  show high ++ (latch.extractLsb' 8 8 ++ low).extractLsb' 0 8 = high ++ low
  rw [BitVec.extractLsb'_append_eq_right]

theorem byte_append_toNat (low high : Byte) : (high ++ low).toNat = 256 * high.toNat + low.toNat := by
  rw [BitVec.toNat_append, ← Nat.shiftLeft_add_eq_or_of_lt low.isLt, Nat.shiftLeft_eq, Nat.mul_comm]

theorem reload_byte_append (low high : Byte) :
    reload (high ++ low) = if low.toNat = 0 ∧ high.toNat = 0 then 65536 else 256 * high.toNat + low.toNat := by
  have hz : (high ++ low : LatchWord) = 0#16 ↔ low.toNat = 0 ∧ high.toNat = 0 := by
    rw [← BitVec.toNat_inj, byte_append_toNat, BitVec.toNat_zero]
    omega
  simp only [reload, hz, byte_append_toNat]

theorem State.programChannel_lowThenHigh (s : State) (c : ChannelId) {v : Byte} (h : timerAccess v = .lowThenHigh) :
    (s.programChannel c v).timer c = ⟨.lowThenHigh, timerOpMode v, (s.timer c).latch, 1⟩ := by
  rw [State.programChannel_timer, h]
  rfl

theorem State.dataWrite_low {s : State} {c : ChannelId} {m : BitVec 4} {latch : LatchWord}
    (h : s.timer c = ⟨.lowThenHigh, m, latch, 1⟩) (low : Byte) :
    (s.dataWrite c low).timer c = ⟨.lowThenHigh, m, mergeLatch .lowThenHigh 1 latch low, 2⟩ := by
  rw [State.dataWrite_timer, h]
  rfl

theorem State.dataWrite_high {s : State} {c : ChannelId} {m : BitVec 4} {latch : LatchWord} {low : Byte}
    (h : s.timer c = ⟨.lowThenHigh, m, mergeLatch .lowThenHigh 1 latch low, 2⟩) (high : Byte) :
    (s.dataWrite c high).timer c = ⟨.lowThenHigh, m, high ++ low, 3⟩ := by
  rw [State.dataWrite_timer, h, mergeLatch_low_high]
  rfl

/-- Two data bytes for A after a low-then-high control word: the latch holds both, and the second arms Timer A. -/
theorem execAll_twoBytesA {s : State} {m : BitVec 4} {latch : LatchWord}
    (h : s.timer .a = ⟨.lowThenHigh, m, latch, 1⟩) (low high : Byte) :
    ∃ t, execAll [.hTimerWr 0#2 low, .hTimerWr 0#2 high] s = .next t ∧
      t.chA = ⟨.lowThenHigh, m, high ++ low, 3⟩ ∧
      t.armedA = some (1000 / s.cfg.clkA * (reload (high ++ low) : Rat)) := by
  have hlow : (settled (s.dataWrite .a low)).timer .a = _ := (settled_timer ..).trans (State.dataWrite_low h low)
  have hhigh := State.dataWrite_high hlow high
  have harm := State.dataWrite_armedA high (congrArg (fun ch => ch.loadState.val) hlow)
  rw [hhigh, settled_cfg, State.dataWrite_cfg] at harm
  refine ⟨settled ((settled (s.dataWrite .a low)).dataWrite .a high), ?_, hhigh, harm⟩
  rw [execAll_cons _ (exec_hTimerWr ..), execAll_cons _ (exec_hTimerWr ..)]
  rfl

/-- Settles O37: the control word puts channel A at loadState 1, the low byte at 2, and the high byte at 3, where it
arms Timer A. -/
theorem twoByteLoadArmsTimerA : Obligations.TwoByteLoadArmsTimerA := by
  intro s v low high hv
  obtain ⟨hsel, hacc⟩ := control_lowThenHighA v hv
  have hctrl : (settled (s.timerWrite 3#2 v)).timer .a = ⟨.lowThenHigh, timerOpMode v, s.chA.latch, 1⟩ := by
    rw [settled_timer, State.timerWrite_control, State.controlWrite_of_select s hsel]
    exact s.programChannel_lowThenHigh .a hacc
  obtain ⟨t, hrun, hch, harm⟩ := execAll_twoBytesA hctrl low high
  refine ⟨t, (execAll_cons _ (exec_hTimerWr ..)).trans hrun, ?_, ?_, ?_⟩
  · rw [hch, byte_append_toNat]
  · rw [hch]
    rfl
  · rw [harm, reload_byte_append, settled_cfg, State.timerWrite_cfg]

end Sys2Proof.Machine

/-! PROOF. R100-R106: decoding and encoding are inverse to each other. The rows of the two decode tables that leave
sub-address bits free are one equation per pair or quarter of ports (`internalRead_chip`, …, `hostWrite_quarter`); read
one way they give decode after encode, the other way that every entry of a table is the packet asked (`…_answers`). -/

namespace Sys2Proof

/-! ## The parts of a sub-address -/

/-- Groups 0 and 1 tell their two ports apart by `S[0]` alone (R104). -/
theorem portPair_fields : ∀ (sss : BitVec 3) (b : BitVec 1),
    (sss ++ b).extractLsb' 1 3 = sss ∧ (sss ++ b).extractLsb' 0 1 = b := by
  decide

theorem exists_portPair (sub : BitVec 4) : ∃ (sss : BitVec 3) (b : BitVec 1), sub = sss ++ b :=
  ⟨sub.extractLsb' 1 3, sub.extractLsb' 0 1, by revert sub; decide⟩

/-- The host window consists of four quarters of four ports (R106). -/
theorem quarter_fields : ∀ q ss : BitVec 2, (q ++ ss).extractLsb' 2 2 = q ∧ (q ++ ss).extractLsb' 0 2 = ss := by
  decide

/-- The four handshake ports fill the first quarter. -/
theorem quarter_ne : ∀ q ss : BitVec 2, q ≠ 0#2 →
    q ++ ss ≠ 0x0#4 ∧ q ++ ss ≠ 0x1#4 ∧ q ++ ss ≠ 0x2#4 ∧ q ++ ss ≠ 0x3#4 := by
  decide

theorem eq_port_or_exists_quarter : ∀ sub : BitVec 4,
    sub = 0x0#4 ∨ sub = 0x1#4 ∨ sub = 0x2#4 ∨ sub = 0x3#4 ∨ ∃ q ss : BitVec 2, q ≠ 0#2 ∧ sub = q ++ ss := by
  decide

theorem Parity.otherBit_ne_bit (par : Parity) : par.otherBit ≠ par.bit := by
  cases par <;> decide

theorem Parity.eq_otherBit {par : Parity} {b : BitVec 1} (h : b ≠ par.bit) : b = par.otherBit := by
  cases par <;> revert b <;> decide

/-! ## The rows of the decode tables that leave bits free -/

theorem internalRead_chip (par : Parity) (sss : BitVec 3) (b : BitVec 1) :
    internalRead par 0#2 (sss ++ b) = if b = 0#1 then .intChipRdEven sss else .intChipStatusRd sss := by
  simp only [internalRead, portPair_fields, if_true]

theorem internalWrite_chip (par : Parity) (sss : BitVec 3) (b : BitVec 1) (v : Byte) :
    internalWrite par 0#2 (sss ++ b) v = if b = 0#1 then .intChipAddrWr sss v else .intChipDataWr sss v := by
  simp only [internalWrite, portPair_fields, if_true]

theorem internalRead_queue (par : Parity) (sss : BitVec 3) (b : BitVec 1) :
    internalRead par 1#2 (sss ++ b) = if b = par.bit then .intQDataRd sss else .intQStatusRd sss := by
  simp only [internalRead, portPair_fields]
  rfl

theorem internalWrite_queue (par : Parity) (sss : BitVec 3) (b : BitVec 1) (v : Byte) :
    internalWrite par 1#2 (sss ++ b) v = if b = par.bit then .intQDataWr sss v else .intQCmdWr sss v := by
  simp only [internalWrite, portPair_fields]
  rfl

theorem internalRead_unmapped {sub : BitVec 4} (par : Parity) (h : (Instr.intHsRdUnmapped sub).wf = true) :
    internalRead par 2#2 sub = .intHsRdUnmapped sub := by
  obtain ⟨h0, h1, h2⟩ : sub ≠ 0#4 ∧ sub ≠ 1#4 ∧ sub ≠ 2#4 := by revert sub; decide
  simp [internalRead, h0, h1, h2]

theorem internalWrite_unmapped {sub : BitVec 4} {v : Byte} (par : Parity)
    (h : (Instr.intHsWrUnmapped sub v).wf = true) :
    internalWrite par 2#2 sub v = .intHsWrUnmapped sub v := by
  obtain ⟨h0, h3⟩ : sub ≠ 0#4 ∧ sub ≠ 3#4 := of_decide_eq_true h
  simp [internalWrite, h0, h3]

theorem hostRead_quarter {q : BitVec 2} (hq : q ≠ 0#2) (ss : BitVec 2) :
    hostRead (q ++ ss) = if q = 1#2 then .hTimerRd ss else if q = 2#2 then .hRdTcrSpace ss else .hTsrRd ss := by
  obtain ⟨h0, h1, h2, h3⟩ := quarter_ne q ss hq
  simp only [hostRead, h0, h1, h2, h3, quarter_fields, if_false]

theorem hostWrite_quarter {q : BitVec 2} (hq : q ≠ 0#2) (ss : BitVec 2) (v : Byte) :
    hostWrite (q ++ ss) v =
      if q = 1#2 then .hTimerWr ss v else if q = 2#2 then .hTcrWr ss v else .hWrTsrSpace ss v := by
  obtain ⟨h0, h1, h2, h3⟩ := quarter_ne q ss hq
  simp only [hostWrite, h0, h1, h2, h3, quarter_fields, if_false]

/-! ## The event codes -/

theorem decodeEvent_reset : decodeEvent 0#8 [] = .ok .evReset := rfl
theorem decodeEvent_enqueue (bytes : List Byte) : decodeEvent 1#8 bytes = .ok (.evEnqueue bytes) := rfl
theorem decodeEvent_fireA : decodeEvent 2#8 [] = .ok .evFireA := rfl
theorem decodeEvent_fireB : decodeEvent 3#8 [] = .ok .evFireB := rfl

theorem decodeEvent_chipLevel (lvl : Bool) :
    decodeEvent 4#8 [if lvl then 1#8 else 0#8] = .ok (.evChipLevel lvl) := by
  cases lvl <;> rfl

/-- Codes 0101 to 1111 are no event, whatever follows them (R119). -/
theorem decodeEvent_reserved {c : Byte} (hc : 5 ≤ c.toNat ∧ c.toNat < 16) (operands : List Byte) :
    decodeEvent c operands = .error (.noSuchEvent c) := by
  obtain ⟨hw, h0, h1, h2, h3, h4⟩ :
      c.extractLsb' 4 4 = 0#4 ∧ c ≠ 0#8 ∧ c ≠ 1#8 ∧ c ≠ 2#8 ∧ c ≠ 3#8 ∧ c ≠ 4#8 := by
    revert c
    decide
  unfold decodeEvent
  rw [if_neg (not_not.mpr hw), if_neg h0, if_neg h1, if_neg h2, if_neg h3, if_neg h4]

theorem format_of_decodeBareEvent {i j : Instr} {c : Byte} {operands : List Byte}
    (h : decodeBareEvent i c operands = .ok j) (hi : i.format = .event) : j.format = .event := by
  cases operands with
  | nil => rwa [← Except.ok.inj h]
  | cons => cases h

theorem format_of_decodeEvent {c : Byte} {operands : List Byte} {i : Instr} (h : decodeEvent c operands = .ok i) :
    i.format = .event := by
  unfold decodeEvent at h
  split_ifs at h
  · exact format_of_decodeBareEvent h rfl
  · rw [← Except.ok.inj h]
    rfl
  · exact format_of_decodeBareEvent h rfl
  · exact format_of_decodeBareEvent h rfl
  · split at h
    · split_ifs at h <;> rw [← Except.ok.inj h] <;> rfl
    · cases h

/-- Only bus accesses have an operand with forbidden values. -/
theorem wf_of_format_event {i : Instr} (h : i.format = .event) : i.wf = true := by
  cases i with
  | evReset | evEnqueue _ | evFireA | evFireB | evChipLevel _ => rfl
  | _ => cases h

/-! ## Decode after encode -/

/-- An instruction's code is that of its row, and the row answers it. -/
theorem decode_encode {i : Instr} (par : Parity) (h : i.wf = true) : decode par i.format (encode par i) = .ok i := by
  cases i with
  | intChipRdEven _ | intChipStatusRd _ => exact (decode_internalRead ..).trans (by rw [internalRead_chip]; rfl)
  | intChipAddrWr _ _ | intChipDataWr _ _ => exact (decode_internalWrite ..).trans (by rw [internalWrite_chip]; rfl)
  | intQDataRd _ => exact (decode_internalRead ..).trans (by rw [internalRead_queue, if_pos rfl])
  | intQStatusRd _ => exact (decode_internalRead ..).trans (by rw [internalRead_queue, if_neg par.otherBit_ne_bit])
  | intQDataWr _ _ => exact (decode_internalWrite ..).trans (by rw [internalWrite_queue, if_pos rfl])
  | intQCmdWr _ _ => exact (decode_internalWrite ..).trans (by rw [internalWrite_queue, if_neg par.otherBit_ne_bit])
  | intHsPeekD2h | intHsGetH2d | intHsStatusRd | intG3Rd _ => exact decode_internalRead ..
  | intHsPutD2h _ | intHsCtrlWr _ | intG3Wr _ _ => exact decode_internalWrite ..
  | intHsRdUnmapped _ => exact (decode_internalRead ..).trans (by rw [internalRead_unmapped par h])
  | intHsWrUnmapped _ _ => exact (decode_internalWrite ..).trans (by rw [internalWrite_unmapped par h])
  | hGetD2h | hPeekH2d | hStatusRd | hRd3 => exact decode_hostRead ..
  | hTimerRd _ | hRdTcrSpace _ | hTsrRd _ =>
    exact (decode_hostRead ..).trans (by rw [hostRead_quarter (by decide)]; rfl)
  | hWr02 b _ =>
    obtain rfl | rfl : b = 0#1 ∨ b = 1#1 := by clear h; revert b; decide
    all_goals exact decode_hostWrite ..
  | hPutH2d _ | hCtrlWr _ => exact decode_hostWrite ..
  | hTimerWr _ _ | hTcrWr _ _ | hWrTsrSpace _ _ =>
    exact (decode_hostWrite ..).trans (by rw [hostWrite_quarter (by decide)]; rfl)
  | evReset => exact decodeEvent_reset
  | evEnqueue bytes => exact decodeEvent_enqueue bytes
  | evFireA => exact decodeEvent_fireA
  | evFireB => exact decodeEvent_fireB
  | evChipLevel lvl => exact decodeEvent_chipLevel lvl

/-- Settles O1, row by row of the tables. -/
theorem decodeEncodeRoundTrip : Obligations.DecodeEncodeRoundTrip := fun par _ h => decode_encode par h

/-! ## Encode after decode -/

/-- Without a data byte the table is finite: 64 ports under either parity. -/
theorem internalRead_answers (par : Parity) (g : BitVec 2) (sub : BitVec 4) :
    (internalRead par g sub).format = .internal ∧ (internalRead par g sub).wf = true ∧
      encode par (internalRead par g sub) = [internalCode 0#1 g sub] := by
  cases par <;> revert g sub <;> decide

theorem internalWrite_answers (par : Parity) (g : BitVec 2) (sub : BitVec 4) (v : Byte) :
    (internalWrite par g sub v).format = .internal ∧ (internalWrite par g sub v).wf = true ∧
      encode par (internalWrite par g sub v) = [internalCode 1#1 g sub, v] := by
  obtain rfl | rfl | rfl | rfl : g = 0#2 ∨ g = 1#2 ∨ g = 2#2 ∨ g = 3#2 := by revert g; decide
  · obtain ⟨sss, b, rfl⟩ := exists_portPair sub
    rw [internalWrite_chip]
    obtain rfl | rfl : b = 0#1 ∨ b = 1#1 := by revert b; decide
    all_goals exact ⟨rfl, rfl, rfl⟩
  · obtain ⟨sss, b, rfl⟩ := exists_portPair sub
    rw [internalWrite_queue]
    split
    next h => subst h; exact ⟨rfl, rfl, rfl⟩
    next h => rw [Parity.eq_otherBit h]; exact ⟨rfl, rfl, rfl⟩
  · by_cases h0 : sub = 0#4
    · subst h0; exact ⟨rfl, rfl, rfl⟩
    by_cases h3 : sub = 3#4
    · subst h3; exact ⟨rfl, rfl, rfl⟩
    have hwf : (Instr.intHsWrUnmapped sub v).wf = true := decide_eq_true ⟨h0, h3⟩
    rw [internalWrite_unmapped par hwf]
    exact ⟨rfl, hwf, rfl⟩
  · exact ⟨rfl, rfl, rfl⟩

theorem hostRead_answers (par : Parity) (sub : BitVec 4) :
    (hostRead sub).format = .host ∧ (hostRead sub).wf = true ∧ encode par (hostRead sub) = [hostCode 0#1 sub] := by
  cases par <;> revert sub <;> decide

theorem hostWrite_answers (par : Parity) (sub : BitVec 4) (v : Byte) :
    (hostWrite sub v).format = .host ∧ (hostWrite sub v).wf = true ∧
      encode par (hostWrite sub v) = [hostCode 1#1 sub, v] := by
  obtain rfl | rfl | rfl | rfl | ⟨q, ss, hq, rfl⟩ := eq_port_or_exists_quarter sub
  case inr.inr.inr.inr =>
    rw [hostWrite_quarter hq]
    obtain rfl | rfl | rfl : q = 1#2 ∨ q = 2#2 ∨ q = 3#2 := by revert q; decide
    all_goals exact ⟨rfl, rfl, rfl⟩
  all_goals exact ⟨rfl, rfl, rfl⟩

/-- What a format's decoder accepts is an entry of its table, and the entry is the packet asked. -/
theorem encode_decode {par : Parity} {f : Format} {bytes : List Byte} {i : Instr} (h : decode par f bytes = .ok i) :
    i.format = f ∧ i.wf = true ∧ encode par i = bytes := by
  match bytes, f, h with
  | c :: operands, .internal, h =>
    obtain ⟨g, sub, ⟨rfl, rfl, rfl⟩ | ⟨v, rfl, rfl, rfl⟩⟩ := decodeInternal_eq_ok h
    · exact internalRead_answers par g sub
    · exact internalWrite_answers par g sub v
  | c :: operands, .host, h =>
    obtain ⟨sub, ⟨rfl, rfl, rfl⟩ | ⟨v, rfl, rfl, rfl⟩⟩ := decodeHost_eq_ok h
    · exact hostRead_answers par sub
    · exact hostWrite_answers par sub v
  | c :: operands, .event, h =>
    have hf : i.format = .event := format_of_decodeEvent h
    exact ⟨hf, wf_of_format_event hf, Machine.encode_of_decodeEvent par h⟩

/-- Settles O2, format by format. -/
theorem encodeDecodeRoundTrip : Obligations.EncodeDecodeRoundTrip := fun _ _ _ _ => encode_decode

end Sys2Proof

/-! PROOF. R119, R124: which codes decode, the codes written as numbers. -/

namespace Sys2Proof

theorem eq_internalCode_read : ∀ c : Byte, c.toNat < 64 →
    c = internalCode 0#1 (c.extractLsb' 4 2) (c.extractLsb' 0 4) := by
  decide

theorem eq_internalCode_write : ∀ c : Byte, 64 ≤ c.toNat ∧ c.toNat < 128 →
    c = internalCode 1#1 (c.extractLsb' 4 2) (c.extractLsb' 0 4) := by
  decide

theorem eq_hostCode_read : ∀ c : Byte, c.toNat < 16 → c = hostCode 0#1 (c.extractLsb' 0 4) := by
  decide

theorem eq_hostCode_write : ∀ c : Byte, 16 ≤ c.toNat ∧ c.toNat < 32 → c = hostCode 1#1 (c.extractLsb' 0 4) := by
  decide

/-- Settles O3: a code in a bus's range is made of the fields its table reads, and each event code has its equation. -/
theorem everyBusCodeDecodes : Obligations.EveryBusCodeDecodes := by
  intro par c v operands
  refine ⟨fun h => ?_, fun h => ?_, fun h => ?_, fun h => ?_, fun h => ?_, fun h => ?_, fun h => ?_,
    fun h => decodeEvent_reserved h operands⟩
  · rw [eq_internalCode_read c h]
    exact ⟨_, decode_internalRead ..⟩
  · rw [eq_internalCode_write c h]
    exact ⟨_, decode_internalWrite ..⟩
  · rw [eq_hostCode_read c h]
    exact ⟨_, decode_hostRead ..⟩
  · rw [eq_hostCode_write c h]
    exact ⟨_, decode_hostWrite ..⟩
  · obtain rfl | rfl | rfl : c = 0#8 ∨ c = 2#8 ∨ c = 3#8 := by revert c; decide
    · exact ⟨_, decodeEvent_reset⟩
    · exact ⟨_, decodeEvent_fireA⟩
    · exact ⟨_, decodeEvent_fireB⟩
  · obtain rfl : c = 1#8 := BitVec.eq_of_toNat_eq h
    exact decodeEvent_enqueue operands
  · obtain ⟨hc, hv⟩ := h
    obtain rfl : c = 4#8 := BitVec.eq_of_toNat_eq hc
    obtain rfl | rfl : v = 0#8 ∨ v = 1#8 := by revert v; decide
    · exact decodeEvent_chipLevel false
    · exact decodeEvent_chipLevel true

/-- Settles O4 by running the decoder on each word. -/
theorem sampleWordsDecode : Obligations.SampleWordsDecode := by
  unfold Obligations.SampleWordsDecode
  decide

end Sys2Proof

/-! PROOF. R103, R104, D6: the queue parity. It reaches the two rows of group 1 and no other, and there the odd parity
reads `S[0]` as the even one reads its inverse. -/

namespace Sys2Proof

theorem internalRead_odd_queue : ∀ sub : BitVec 4,
    internalRead .odd 1#2 sub = internalRead .even 1#2 (sub ^^^ 1#4) := by
  decide

theorem internalWrite_odd_queue (sub : BitVec 4) (v : Byte) :
    internalWrite .odd 1#2 sub v = internalWrite .even 1#2 (sub ^^^ 1#4) v := by
  have hsub : (sub ^^^ 1#4).extractLsb' 1 3 = sub.extractLsb' 1 3 ∧
      ((sub ^^^ 1#4).extractLsb' 0 1 = Parity.even.bit ↔ sub.extractLsb' 0 1 = Parity.odd.bit) := by
    revert sub; decide
  simp [internalWrite, hsub]

theorem internalRead_parity {g : BitVec 2} (hg : g ≠ 1#2) (par par' : Parity) (sub : BitVec 4) :
    internalRead par g sub = internalRead par' g sub := by
  simp only [internalRead, if_neg hg]

theorem internalWrite_parity {g : BitVec 2} (hg : g ≠ 1#2) (par par' : Parity) (sub : BitVec 4) (v : Byte) :
    internalWrite par g sub v = internalWrite par' g sub v := by
  simp only [internalWrite, if_neg hg]

/-- Inverting bit 0 of a code inverts `S[0]` and leaves the width, the direction and the group. -/
theorem flipped_fields : ∀ c : Byte,
    (c ^^^ 1#8).getLsbD 7 = c.getLsbD 7 ∧ (c ^^^ 1#8).getLsbD 6 = c.getLsbD 6 ∧
      (c ^^^ 1#8).extractLsb' 4 2 = c.extractLsb' 4 2 ∧ (c ^^^ 1#8).extractLsb' 0 4 = c.extractLsb' 0 4 ^^^ 1#4 := by
  decide

theorem group_eq_one_iff : ∀ c : Byte, c.extractLsb' 4 2 = 1#2 ↔ c.toNat / 16 % 4 = 1 := by
  decide

/-- The two decoders differ at most in the code a refusal names. -/
theorem decodeInternal_odd_queue {c : Byte} (hg : c.extractLsb' 4 2 = 1#2) (operands : List Byte) (i : Instr) :
    decodeInternal .odd c operands = .ok i ↔ decodeInternal .even (c ^^^ 1#8) operands = .ok i := by
  obtain ⟨h7, h6, hg', hs⟩ := flipped_fields c
  simp only [decodeInternal, h7, h6, hg', hs, hg, internalRead_odd_queue, internalWrite_odd_queue]
  split
  · simp
  · split <;> split <;> simp

theorem decodeInternal_parity {c : Byte} (hg : c.extractLsb' 4 2 ≠ 1#2) (par par' : Parity) (operands : List Byte) :
    decodeInternal par c operands = decodeInternal par' c operands := by
  simp only [decodeInternal, internalRead_parity hg par par', internalWrite_parity hg par par']

/-- Settles O5: the host and event decoders do not take the parity, and the internal one passes it to its tables. -/
theorem oddParitySwapsGroupOneOnly : Obligations.OddParitySwapsGroupOneOnly := by
  intro c operands i
  rw [← group_eq_one_iff, ne_eq, ← group_eq_one_iff]
  exact ⟨fun hg => decodeInternal_odd_queue hg operands i, fun hg => decodeInternal_parity hg .odd .even operands,
    rfl, rfl⟩

end Sys2Proof

/-! PROOF. R71, R119: the ports of the internal bus, and the events that are none. -/

namespace Sys2Proof.Machine

/-! ## Items that do not run -/

/-- What cannot occur stops under its name. -/
theorem step_issue_stop {s : State} {c : Cycle} {f : Fault} (rest : List Cycle) (hs : s.phase = .running)
    (hr : c.route s.cfg = .stop f) : step { s with inbox := c :: rest } = .fault f := by
  rw [step_issue c rest hs, hr]

/-- A packet that does not decode is refused with the decoder's reason. -/
theorem step_issue_undecodable {s : State} {c : Cycle} {f : Format} {bytes : List Byte} {e : DecodeError}
    (rest : List Cycle) (hs : s.phase = .running) (hr : c.route s.cfg = .packet f bytes)
    (hd : decode s.cfg.qDataParity f bytes = .error e) :
    step { s with inbox := c :: rest } = .refused (.noSuchTransaction e) := by
  rw [step_issue c rest hs, hr]
  simp only [runPacket, hd]

/-- Settles O13: such an event reaches the decoder, which refuses its code. -/
theorem reservedEventCodesHaveNoStep : Obligations.ReservedEventCodesHaveNoStep := by
  intro s code operands rest hp h5
  have hc : 5 ≤ (code.setWidth 8).toNat ∧ (code.setWidth 8).toNat < 16 := by bv_omega
  have h4 : code ≠ 4#4 := by rintro rfl; exact absurd h5 (by decide)
  have hr : (Cycle.event code operands).route s.cfg = .packet .event (code.setWidth 8 :: operands) :=
    route_of_running (.inl (beq_eq_false_iff_ne.mpr h4))
  exact step_issue_undecodable rest hp hr (decodeEvent_reserved hc operands)

/-! ## The internal ports -/

/-- The code of a port holds its bits 5:4 and 3:0 and none above them (R71, D3). -/
theorem internalCode_port (w : BitVec 1) (port : Nat) :
    internalCode w (BitVec.ofNat 2 (port / 16)) (BitVec.ofNat 4 port) =
      internalCode w (BitVec.ofNat 2 (port % 64 / 16)) (BitVec.ofNat 4 (port % 16)) := by
  have hg : BitVec.ofNat 2 (port / 16) = BitVec.ofNat 2 (port % 64 / 16) := by
    apply BitVec.eq_of_toNat_eq
    simp only [BitVec.toNat_ofNat]
    omega
  have hs : BitVec.ofNat 4 port = BitVec.ofNat 4 (port % 16) := by
    apply BitVec.eq_of_toNat_eq
    simp only [BitVec.toNat_ofNat]
    omega
  rw [hg, hs]

theorem routeInternal_lowSixBits {cfg : Params} {port : Nat} (w : BitVec 1) (operands : List Byte)
    (h : port < 2 ^ cfg.intPortBits) :
    routeInternal cfg w port operands = .packet .internal
      (internalCode w (BitVec.ofNat 2 (port % 64 / 16)) (BitVec.ofNat 4 (port % 16)) :: operands) := by
  rw [routeInternal_of_lt w operands h, internalCode_port]

theorem routeInternal_of_le {cfg : Params} {port : Nat} (w : BitVec 1) (operands : List Byte)
    (h : 2 ^ cfg.intPortBits ≤ port) : routeInternal cfg w port operands = .stop (.noSuchPort port) :=
  if_neg (Nat.not_lt.mpr h)

/-- Settles O8: a port of the bus has the packet of its low six bits, a wider number has none. -/
theorem internalPortsDecodeLowSixBits : Obligations.InternalPortsDecodeLowSixBits := by
  intro s port v rest hp hfw
  have hread : (Cycle.intRead port).route s.cfg = routeInternal s.cfg 0#1 port [] := route_of_running (.inr hfw)
  have hwrite : (Cycle.intWrite port v).route s.cfg = routeInternal s.cfg 1#1 port [v] := route_of_running (.inr hfw)
  refine ⟨fun h => ⟨?_, ?_⟩, fun h => ⟨?_, ?_⟩⟩
  · exact step_issue_packet rest hp (hread.trans (routeInternal_lowSixBits 0#1 [] h)) (decode_internalRead ..)
  · exact step_issue_packet rest hp (hwrite.trans (routeInternal_lowSixBits 1#1 [v] h)) (decode_internalWrite ..)
  · exact step_issue_stop rest hp (hread.trans (routeInternal_of_le 0#1 [] h))
  · exact step_issue_stop rest hp (hwrite.trans (routeInternal_of_le 1#1 [v] h))

end Sys2Proof.Machine

/-! PROOF. A word of the opcode table is the next instruction (log entries 5 and 7): the item `cycleOf` makes of a
packet that decodes leads back to that packet (`route_cycleOf`), and it is construction exactly if it decodes to `EV_RESET`. -/

namespace Sys2Proof.Machine

/-! ## The item of a bus code -/

theorem internalCode_port_bits : ∀ (w : BitVec 1) (g : BitVec 2) (sub : BitVec 4),
    (internalCode w g sub).extractLsb' 0 6 = g ++ sub := by
  decide

theorem port_fields : ∀ (g : BitVec 2) (sub : BitVec 4),
    BitVec.ofNat 2 ((g ++ sub).toNat / 16) = g ∧ BitVec.ofNat 4 (g ++ sub).toNat = sub := by
  decide

theorem cycleOf_internalRead (cfg : Params) (g : BitVec 2) (sub : BitVec 4) (operands : List Byte) :
    cycleOf cfg .internal (internalCode 0#1 g sub) operands = .intRead (g ++ sub).toNat := by
  simp only [cycleOf, internalCode_fields, internalCode_port_bits]
  rfl

theorem cycleOf_internalWrite (cfg : Params) (g : BitVec 2) (sub : BitVec 4) (v : Byte) :
    cycleOf cfg .internal (internalCode 1#1 g sub) [v] = .intWrite (g ++ sub).toNat v := by
  simp only [cycleOf, internalCode_fields, internalCode_port_bits]
  rfl

theorem cycleOf_hostRead (cfg : Params) (sub : BitVec 4) (operands : List Byte) :
    cycleOf cfg .host (hostCode 0#1 sub) operands = .hostRead (cfg.hostBase + sub.toNat) := by
  simp only [cycleOf, hostCode_fields]
  rfl

theorem cycleOf_hostWrite (cfg : Params) (sub : BitVec 4) (v : Byte) :
    cycleOf cfg .host (hostCode 1#1 sub) [v] = .hostWrite (cfg.hostBase + sub.toNat) v := by
  simp only [cycleOf, hostCode_fields]
  rfl

/-! ## The item leads back to its packet -/

theorem routeInternal_append {cfg : Params} (h6 : 6 ≤ cfg.intPortBits) (w : BitVec 1) (g : BitVec 2) (sub : BitVec 4)
    (operands : List Byte) :
    routeInternal cfg w (g ++ sub).toNat operands = .packet .internal (internalCode w g sub :: operands) := by
  have hlt : (g ++ sub).toNat < 2 ^ cfg.intPortBits :=
    Nat.lt_of_lt_of_le (g ++ sub).isLt (Nat.pow_le_pow_right (by decide) h6)
  obtain ⟨hg, hs⟩ := port_fields g sub
  rw [routeInternal_of_lt w operands hlt, hg, hs]

theorem routeHost_add (cfg : Params) (w : BitVec 1) (sub : BitVec 4) (operands : List Byte) :
    routeHost cfg w (cfg.hostBase + sub.toNat) operands = .packet .host (hostCode w sub :: operands) := by
  rw [routeHost_of_lt w operands sub.isLt, BitVec.ofNat_toNat, BitVec.setWidth_eq]

theorem setWidth_setWidth_of_narrow : ∀ c : Byte, c.extractLsb' 4 4 = 0#4 → (c.setWidth 4).setWidth 8 = c := by
  decide

/-- An event code that decodes fits the four bits in which the event is issued (R102). -/
theorem setWidth_setWidth_of_decodeEvent {c : Byte} {operands : List Byte} {i : Instr}
    (h : decodeEvent c operands = .ok i) : (c.setWidth 4).setWidth 8 = c := by
  unfold decodeEvent at h
  split at h
  · cases h
  next hw => exact setWidth_setWidth_of_narrow c (not_not.mp hw)

theorem route_cycleOf {cfg : Params} {par : Parity} {f : Format} {c : Byte} {operands : List Byte} {i : Instr}
    (h6 : 6 ≤ cfg.intPortBits) (hfw : cfg.fwPresent = true) (hd : decode par f (c :: operands) = .ok i) :
    (cycleOf cfg f c operands).route cfg = .packet f (c :: operands) := by
  rw [route_of_running (.inr hfw)]
  cases f with
  | internal =>
    obtain ⟨g, sub, ⟨rfl, rfl, -⟩ | ⟨v, rfl, rfl, -⟩⟩ := decodeInternal_eq_ok hd
    · rw [cycleOf_internalRead]
      exact routeInternal_append h6 ..
    · rw [cycleOf_internalWrite]
      exact routeInternal_append h6 ..
  | host =>
    obtain ⟨sub, ⟨rfl, rfl, -⟩ | ⟨v, rfl, rfl, -⟩⟩ := decodeHost_eq_ok hd
    · rw [cycleOf_hostRead]
      exact routeHost_add ..
    · rw [cycleOf_hostWrite]
      exact routeHost_add ..
  | event =>
    show Route.packet .event ((c.setWidth 4).setWidth 8 :: operands) = .packet .event (c :: operands)
    rw [setWidth_setWidth_of_decodeEvent hd]

/-! ## The step -/

/-- Construction is the one item whose packet decodes to `EV_RESET` (R102, R400). -/
theorem constructs_iff {cfg : Params} {par : Parity} {c : Cycle} {f : Format} {bytes : List Byte} {i : Instr}
    (hr : c.route cfg = .packet f bytes) (hd : decode par f bytes = .ok i) : c.constructs = true ↔ i = .evReset := by
  constructor
  · intro hc
    obtain ⟨operands, -, hr'⟩ := route_of_constructs (cfg := cfg) hc
    obtain ⟨rfl, rfl⟩ := Route.packet.inj (hr.symm.trans hr')
    cases operands with
    | nil => exact (Except.ok.inj hd).symm
    | cons => cases hd
  · rintro rfl
    obtain rfl : Format.event = f := (encode_decode hd).1
    exact constructs_of_evReset hr hd

theorem decodeTableWord_eq_some {nbits w : Nat} {i : Instr} (h : decodeTableWord nbits w = some i) :
    ∃ f, tableFormat nbits w = some f ∧ decode .even f (tableCode w :: tableOperands f nbits w) = .ok i := by
  unfold decodeTableWord at h
  split at h
  · cases h
  next f hf =>
    split at h
    next j hd => exact ⟨f, hf, by rw [hd, Option.some.inj h]⟩
    next => cases h

/-- Settles O7: the word's item leads to the packet `decodeTableWord` reads, in the phase in which it can occur. -/
theorem fetchWordRunsTableInstruction : Obligations.FetchWordRunsTableInstruction := by
  intro s nbits w i hpar h6 hi
  obtain ⟨f, hf, hd⟩ := decodeTableWord_eq_some hi
  have hr : (tableCycle s.cfg nbits w).route { s.cfg with fwPresent := true } =
      .packet f (tableCode w :: tableOperands f nbits w) := by
    rw [tableCycle, hf]
    exact route_cycleOf (cfg := { s.cfg with fwPresent := true }) h6 rfl hd
  have hs : step (s.withFetchWord nbits w) = exec i { s.withFetchWord nbits w with inbox := s.inbox } :=
    step_packet (Cycle.phase_stops _) rfl hr (hpar ▸ hd)
  rw [hs, State.withFetchWord, Cycle.phase]
  simp only [constructs_iff hr hd]

end Sys2Proof.Machine

/-! PROOF. The handshake channels (R150-R152, R155, R156): the state each operation completes in is said once
(`ChannelOp.writes`, `exec_channelOp`); the rules of put, get and peek are its cases, and the sequence law is an
induction over a run of operations. -/

namespace Sys2Proof.Machine

/-! ## What an operation on a channel does -/

/-- A byte returned to the side that reads a channel: the device reads H2D, the host D2H. -/
def State.returnToReader (s : State) : Chan → Byte → State
  | .h2d, v => s.returnInternal v
  | .d2h, v => s.returnHost v

/-- A byte returned to the side that writes a channel, which is the side that peeks at it (R314, R271). -/
def State.returnToWriter (s : State) : Chan → Byte → State
  | .h2d, v => s.returnHost v
  | .d2h, v => s.returnInternal v

/-- A state with an operation's own writes, before the host interrupt is delivered. -/
def ChannelOp.writes (c : Chan) (s : State) : ChannelOp → State
  | .put b => s.setChan c { s.chan c with value := b, ready := true }
  | .get => (s.setChan c { s.chan c with ready := false }).returnToReader c (s.chan c).value
  | .peek => s.returnToWriter c (s.chan c).value

/-- Every operation completes, with its own writes and the delivery of the host interrupt. -/
theorem exec_channelOp (c : Chan) (s : State) (op : ChannelOp) :
    exec (op.instr c) s = .next (settled (op.writes c s)) := by
  cases op with
  | put b =>
    cases c with
    | h2d => exact complete_put s .h2d b
    | d2h => exact complete_put s .d2h b
  | get =>
    cases c with
    | h2d =>
      have h : exec .intHsGetH2d s = complete ((s.get .h2d).2.returnInternal s.h2d.value) := rfl
      exact h.trans (by rw [complete_eq, State.get_snd, settled_returnInternal_settled]; rfl)
    | d2h =>
      have h : exec .hGetD2h s = complete ((s.get .d2h).2.returnHost s.d2h.value) := rfl
      exact h.trans (by rw [complete_eq, State.get_snd, settled_returnHost_settled]; rfl)
  | peek => cases c <;> exact complete_eq _

/-- Settles O15: a put is `exec_channelOp` at `put`. -/
theorem putStoresValueAndSetsReady : Obligations.PutStoresValueAndSetsReady := fun s b =>
  ⟨exec_channelOp .h2d s (.put b), exec_channelOp .d2h s (.put b)⟩

/-- Settles O16: a get is `exec_channelOp` at `get`. -/
theorem getReturnsValueAndClearsReady : Obligations.GetReturnsValueAndClearsReady := fun s =>
  ⟨exec_channelOp .h2d s .get, exec_channelOp .d2h s .get⟩

/-- A peek writes nothing the host condition reads, so from a settled line it delivers nothing (R152, R364). -/
theorem exec_peek_of_settled (c : Chan) {s : State} (h : s.hostIrqLevel = s.hostActive) :
    exec (ChannelOp.peek.instr c) s = .next (s.returnToWriter c (s.chan c).value) := by
  rw [exec_channelOp, ChannelOp.writes, settled_eq_self]
  cases c <;> exact h

/-- Settles O17, by `exec_peek_of_settled` on either channel. -/
theorem peekHasNoSideEffect : Obligations.PeekHasNoSideEffect := fun _ h =>
  ⟨exec_peek_of_settled .h2d h, exec_peek_of_settled .d2h h⟩

/-! ## Runs of operations on one channel -/

/-- The state after an operation. -/
def ChannelOp.run (c : Chan) (s : State) (op : ChannelOp) : State := settled (op.writes c s)

/-- A sequence of operations always completes, each from where the one before it ended. -/
theorem execAll_channelOps (c : Chan) (ops : List ChannelOp) (s : State) :
    execAll (ops.map (ChannelOp.instr c)) s = .next (ops.foldl (ChannelOp.run c) s) := by
  induction ops generalizing s with
  | nil => rfl
  | cons op ops ih => exact (execAll_cons _ (exec_channelOp c s op)).trans (ih _)

@[simp] theorem ChannelOp.run_put_chan (c : Chan) (s : State) (b : Byte) :
    ((ChannelOp.put b).run c s).chan c = { s.chan c with value := b, ready := true } := by
  rw [ChannelOp.run, settled_chan, ChannelOp.writes, State.chan_setChan]

@[simp] theorem ChannelOp.run_get_chan (c : Chan) (s : State) :
    (ChannelOp.get.run c s).chan c = { s.chan c with ready := false } := by
  cases c <;> rfl

@[simp] theorem ChannelOp.run_peek_chan (c : Chan) (s : State) : (ChannelOp.peek.run c s).chan c = s.chan c := by
  cases c <;> rfl

/-- A get hands the reader the value held (R151). -/
@[simp] theorem ChannelOp.run_get_readsOf (c : Chan) (s : State) :
    (ChannelOp.get.run c s).readsOf c = s.readsOf c ++ [(s.chan c).value] := by
  cases c <;> rfl

/-! ## The sequence law -/

/-- The last put of a sequence has only peeks after it: what was put has not been got. -/
def LastPutUnread (ops : List ChannelOp) : Prop :=
  ∃ (before after : List ChannelOp) (x : Byte), ops = before ++ .put x :: after ∧ ∀ op ∈ after, op = .peek

theorem not_lastPutUnread_nil : ¬ LastPutUnread [] := by
  rintro ⟨before, after, x, h, -⟩
  simp at h

/-- One more operation leaves a put unread if it is itself a put, or a peek where one was unread before. -/
theorem lastPutUnread_concat {ops : List ChannelOp} {op : ChannelOp} :
    LastPutUnread (ops ++ [op]) ↔ (∃ x, op = .put x) ∨ op = .peek ∧ LastPutUnread ops := by
  constructor
  · rintro ⟨before, after, x, h, hpeek⟩
    rcases after.eq_nil_or_concat with rfl | ⟨after, last, rfl⟩
    · exact .inl ⟨x, List.singleton_inj.mp (List.append_inj' h rfl).2⟩
    · rw [List.concat_eq_append, ← List.cons_append, ← List.append_assoc] at h
      obtain ⟨rfl, hlast⟩ := List.append_inj' h rfl
      obtain rfl := List.singleton_inj.mp hlast
      exact .inr ⟨hpeek op (by simp), before, after, x, rfl, fun o ho => hpeek o (by simp [ho])⟩
  · rintro (⟨x, rfl⟩ | ⟨rfl, before, after, x, rfl, hpeek⟩)
    · exact ⟨ops, [], x, rfl, by simp⟩
    · refine ⟨before, after ++ [.peek], x, by simp, fun o ho => ?_⟩
      rcases List.mem_append.mp ho with ho | ho
      · exact hpeek o ho
      · exact List.mem_singleton.mp ho

/-- First sentence of R155, for a channel not ready at the start. -/
theorem ready_foldl_run_iff {c : Chan} {s : State} (h : (s.chan c).ready = false) (ops : List ChannelOp) :
    ((ops.foldl (ChannelOp.run c) s).chan c).ready = true ↔ LastPutUnread ops := by
  induction ops using List.reverseRecOn with
  | nil => simp [h, not_lastPutUnread_nil]
  | append_singleton ops op ih =>
    rw [List.foldl_concat, lastPutUnread_concat]
    cases op with
    | put b => simp
    | get => simp
    | peek => simp [ih]

/-- Only a put changes the value a channel holds (R150-R152). -/
theorem value_foldl_run_of_no_put (c : Chan) {ops : List ChannelOp} (h : ∀ op ∈ ops, ∀ y, op ≠ .put y) (s : State) :
    ((ops.foldl (ChannelOp.run c) s).chan c).value = (s.chan c).value := by
  induction ops generalizing s with
  | nil => rfl
  | cons op ops ih =>
    rw [List.foldl_cons, ih fun o ho => h o (List.mem_cons_of_mem _ ho)]
    cases op with
    | put b => exact absurd rfl (h _ List.mem_cons_self b)
    | get => rw [ChannelOp.run_get_chan]
    | peek => rw [ChannelOp.run_peek_chan]

/-- Second sentence of R155: a get that follows a put, with no put between them, hands the reader what was put. -/
theorem getLast_readsOf_put_get (c : Chan) (s : State) (before : List ChannelOp) {between : List ChannelOp} (x : Byte)
    (h : ∀ op ∈ between, ∀ y, op ≠ .put y) :
    (((before ++ ChannelOp.put x :: between ++ [ChannelOp.get]).foldl (ChannelOp.run c) s).readsOf c).getLast? =
      some x := by
  rw [List.foldl_concat, ChannelOp.run_get_readsOf, List.getLast?_concat, List.foldl_append, List.foldl_cons,
    value_foldl_run_of_no_put c h, ChannelOp.run_put_chan]

/-- Settles O20: a sequence runs to the fold of its operations, by induction from its end for `ready`, and for the byte
got by following the value from the put. -/
theorem channelSequenceLaw : Obligations.ChannelSequenceLaw := by
  intro c s ops hs
  refine ⟨⟨_, execAll_channelOps c ops s, ready_foldl_run_iff hs ops⟩, ?_⟩
  rintro before between x rfl hb
  exact ⟨_, execAll_channelOps c _ s, getLast_readsOf_put_get c s before x hb⟩

/-! ## The two channels are independent -/

@[simp] theorem State.recomputeHostIrq_chan (s : State) (c : Chan) : s.recomputeHostIrq.chan c = s.chan c := by
  rw [State.recomputeHostIrq_eq_settled, settled_chan]

theorem State.put_chan (s : State) (c : Chan) (b : Byte) :
    (s.put c b).chan c = { s.chan c with value := b, ready := true } := by
  rw [State.put, State.recomputeHostIrq_chan, State.chan_setChan]

theorem State.get_chan (s : State) (c : Chan) : (s.get c).2.chan c = { s.chan c with ready := false } := by
  rw [State.get_snd, settled_chan, State.chan_setChan]

theorem State.setRxInterruptEnabled_chan (s : State) (c : Chan) (e : Bool) :
    (s.setRxInterruptEnabled c e).chan c = { s.chan c with rxEn := e } := by
  rw [State.setRxInterruptEnabled, State.recomputeHostIrq_chan, State.chan_setChan]

theorem State.setTxInterruptEnabled_chan (s : State) (c : Chan) (e : Bool) :
    (s.setTxInterruptEnabled c e).chan c = { s.chan c with txEn := e } := by
  rw [State.setTxInterruptEnabled, State.recomputeHostIrq_chan, State.chan_setChan]

/-- Settles O21: no primitive writes the other channel, and what each makes of its own, and returns, is a function of
its own channel alone, which replacing the other does not change. -/
theorem channelsAreIndependent : Obligations.ChannelsAreIndependent := by
  intro s c d x b e h
  have hwrite (y : Channel) : (s.setChan c y).recomputeHostIrq.chan d = s.chan d :=
    (State.recomputeHostIrq_chan ..).trans (s.chan_setChan_of_ne y h)
  have hread : (s.setChan d x).chan c = s.chan c := s.chan_setChan_of_ne x h.symm
  refine ⟨⟨hwrite _, hwrite _, hwrite _, hwrite _⟩, ?_, ?_, ?_, ?_, ?_, ?_⟩
  · simp only [State.put_chan, hread]
  · simp only [State.get_fst, hread]
  · simp only [State.get_chan, hread]
  · simp only [State.peek, hread]
  · simp only [State.setRxInterruptEnabled_chan, hread]
  · simp only [State.setTxInterruptEnabled_chan, hread]

end Sys2Proof.Machine

/-! PROOF. The ByteQueue (R180-R184): the state in which each of its transactions completes is one equation; first in,
first out is the induction over the bytes read. -/

namespace Sys2Proof.Machine

/-! ## What the queue's transactions do -/

theorem exec_evEnqueue (bytes : List Byte) (s : State) :
    exec (.evEnqueue bytes) s = .next (settled (s.enqueue bytes)) :=
  complete_eq _

/-- A data read with a byte in the queue removes and returns the oldest (R181, R267). -/
theorem exec_intQDataRd_of_cons (sss : BitVec 3) {s : State} {b : Byte} {rest : List Byte} (h : s.queue = b :: rest) :
    exec (.intQDataRd sss) s = .next (settled (({ s with queue := rest } : State).returnInternal b)) := by
  show execIntQDataRd sss s = _
  rw [execIntQDataRd, State.dequeueOne_cons s h]
  exact complete_eq _

/-- An enqueue counts the bytes that fit only up to those it is given (R180). -/
theorem State.enqueue_eq (s : State) (bytes : List Byte) :
    s.enqueue bytes = { s with queue := s.queue ++ bytes.take (min bytes.length (64 - s.queue.length)) } := by
  rw [min_comm, ← List.take_eq_take_min]
  rfl

/-- Settles O28, by `State.enqueue_eq`. -/
theorem enqueueAppendsWhatFits : Obligations.EnqueueAppendsWhatFits := by
  intro s bytes
  rw [CompletesAs, exec_evEnqueue, State.enqueue_eq]

/-- Settles O31: the meaning is `complete` of the store. -/
theorem queueCommandStoresMode : Obligations.QueueCommandStoresMode := fun s _ v => complete_eq (s.setQueueMode v)

/-! ## First in, first out -/

/-- As many data reads as there are bytes at the front of the queue return these bytes in order and leave the rest. -/
theorem execAll_intQDataRd (sss : BitVec 3) (front : List Byte) {rest : List Byte} {s : State}
    (h : s.queue = front ++ rest) :
    ∃ t, execAll (List.replicate front.length (.intQDataRd sss)) s = .next t ∧
      t.queue = rest ∧ t.out.intReads = s.out.intReads ++ front := by
  induction front generalizing s with
  | nil => exact ⟨s, rfl, h, (List.append_nil _).symm⟩
  | cons b front ih =>
    have hread := exec_intQDataRd_of_cons sss (h.trans List.cons_append)
    obtain ⟨t, hrun, hqueue, hreads⟩ :=
      ih (s := settled (({ s with queue := front ++ rest } : State).returnInternal b)) rfl
    refine ⟨t, ?_, hqueue, ?_⟩
    · rw [List.length_cons, List.replicate_succ, execAll_cons _ hread, hrun]
    · rw [hreads, ← List.singleton_append, ← List.append_assoc]
      rfl

/-- Settles O33: the enqueue leaves the first 64 bytes in the empty queue, and the reads return them. -/
theorem queueIsFirstInFirstOut : Obligations.QueueIsFirstInFirstOut := by
  intro s sss bytes hempty
  have hfirst : (settled (s.enqueue bytes)).queue = bytes.take 64 ++ [] := by simp [State.enqueue, hempty]
  obtain ⟨t, hrun, hqueue, hreads⟩ := execAll_intQDataRd sss _ hfirst
  rw [List.length_take, min_comm] at hrun
  exact ⟨t, (execAll_cons _ (exec_evEnqueue bytes s)).trans hrun, hqueue, hreads⟩

/-! ## The queue status byte -/

/-- Settles O26: the byte is `placeBits` of the three fields at positions that differ. -/
theorem queueStatusByteFields : Obligations.QueueStatusByteFields := by
  intro s sss hwf
  have hnodup := hwf.qStatPos_nodup
  refine ⟨s.queueStatus, complete_eq _, ?_, ?_, ?_, fun k hk => placeBits_getLsbD_of_not_mem _ _ k hk⟩
  · exact placeBits_getLsbD_of_mem _ _ _ _ hnodup (.head _)
  · exact placeBits_getLsbD_of_mem _ _ _ _ hnodup (.tail _ (.head _))
  · exact placeBits_getLsbD_of_mem _ _ _ s.qIrq hnodup (.tail _ (.tail _ (.head _)))

/-! ## The queue interrupt condition -/

/-- The formula of R183 on numbers. -/
theorem State.qIrq_iff (s : State) : s.qIrq = true ↔ s.queueMode.toNat % 2 = 1 ∧ s.tcr.toNat / 16 % 2 = 0 := by
  simp only [State.qIrq, tcrQInh, BitVec.getLsbD, Nat.testBit_eq_decide_div_mod_eq]
  simp

/-- The queue's condition is one term of the embedded-processor interrupt (R361). -/
theorem State.cpuIrq_of_qIrq {s : State} (h : s.qIrq = true) : s.cpuIrq = true := by
  rw [State.cpuIrq, h, Bool.or_true]

/-- Settles O32: the host's condition (R362) has no term of the queue. -/
theorem queueInterruptCondition : Obligations.QueueInterruptCondition := fun s =>
  ⟨s.qIrq_iff, State.cpuIrq_of_qIrq, fun _ _ => rfl⟩

end Sys2Proof.Machine

/-! PROOF. The TimerPair's writes, reads and firings (R210-R222). The statements write the timer rules on numbers
(`programmed`, `loaded`, `latchCount`, `modeDiags`), the model on bit fields: one equation each says they agree, and
`programChannel` and `dataWrite` are then stated once for all three channels. -/

namespace Sys2Proof.Machine

/-! ## Control words -/

/-- `SC` is the value of the two highest bits (R112). -/
theorem timerSelect_of_div : ∀ v : Byte,
    (v.toNat / 64 = 0 → timerSelect v = some .a) ∧ (v.toNat / 64 = 1 → timerSelect v = some .b1) ∧
    (v.toNat / 64 = 2 → timerSelect v = some .b2) ∧ (v.toNat / 64 = 3 → timerSelect v = none) := by
  decide

theorem controlWordAccess_eq : ∀ v : Byte, controlWordAccess v = (timerAccess v, initLoad (timerAccess v)) := by
  decide

theorem rateGenerator_iff : ∀ v : Byte, rateGenerator v = true ↔ v.toNat / 2 % 8 = 2 := by
  decide

theorem timerOpMode_eq (v : Byte) : timerOpMode v = BitVec.ofNat 4 v.toNat := by
  simp [timerOpMode, BitVec.extractLsb']

theorem programmed_eq (ch : TimerChannel) (v : Byte) :
    programmed ch v = { ch with
      access := timerAccess v, opMode := timerOpMode v, loadState := initLoad (timerAccess v) } := by
  rw [programmed, controlWordAccess_eq, timerOpMode_eq]

/-- A control word sets the channel up, cancels its timer and reports a mode that is not supported (R211, R213). -/
theorem State.programChannel_eq (s : State) (c : ChannelId) (v : Byte) :
    s.programChannel c v =
      let s' := (s.setTimer c (programmed (s.timer c) v)).cancel (timerOf c)
      s'.withOut { s'.out with diags := modeDiags s'.out.diags v } := by
  unfold State.programChannel modeDiags
  rw [programmed_eq]
  simp only [rateGenerator_iff]
  split <;> rfl

/-- A control word whose `SC` names a channel completes by programming it. -/
theorem completesAs_control {v : Byte} {c : ChannelId} (s : State) (h : timerSelect v = some c) :
    CompletesAs (.hTimerWr 3#2 v) s
      (let s' := (s.setTimer c (programmed (s.timer c) v)).cancel (timerOf c)
       s'.withOut { s'.out with diags := modeDiags s'.out.diags v }) := by
  rw [CompletesAs, exec_hTimerWr, State.timerWrite_control, State.controlWrite_of_select s h, State.programChannel_eq]

/-- A control word whose `SC` names no channel completes with a diagnostic only (R212). -/
theorem completesAs_control_none {v : Byte} (s : State) (h : timerSelect v = none) :
    CompletesAs (.hTimerWr 3#2 v) s (s.log (.noTimerChannel v)) := by
  rw [CompletesAs, exec_hTimerWr, State.timerWrite_control, State.controlWrite_of_none s h]

/-- Settles O34: `SC` selects one of three channels, all programmed alike, or none. -/
theorem timerControlWordProgramsChannel : Obligations.TimerControlWordProgramsChannel := by
  intro s v
  obtain ⟨ha, hb1, hb2, hnone⟩ := timerSelect_of_div v
  exact ⟨fun h => completesAs_control s (ha h), fun h => completesAs_control s (hb1 h),
    fun h => completesAs_control s (hb2 h), fun h => completesAs_control_none s (hnone h)⟩

/-! ## Data bytes -/

theorem nextLoad_eq : ∀ old : Fin 6, nextLoad old = if old.val < 5 then Fin.ofNat 6 (old.val + 1) else 4 := by
  decide

theorem odd_loadState_iff : ∀ old : Fin 6, old.val % 2 = 1 ↔ old.val = 1 ∨ old.val = 3 ∨ old.val = 5 := by
  decide

theorem toNat_highByte (latch : LatchWord) : (latch.extractLsb' 8 8).toNat = latch.toNat / 256 := by
  rw [BitVec.extractLsb'_toNat, Nat.shiftRight_eq_div_pow]
  omega

theorem toNat_lowByte (latch : LatchWord) : (latch.extractLsb' 0 8).toNat = latch.toNat % 256 :=
  BitVec.extractLsb'_toNat ..

/-- The merge of R215 on numbers. -/
theorem toNat_mergeLatch (ch : TimerChannel) (v : Byte) :
    (mergeLatch ch.access ch.loadState ch.latch v).toNat = mergedLatch ch v := by
  unfold mergeLatch mergedLatch
  cases ch.access with
  | latch => rfl
  | lowOnly => simp [byte_append_toNat]
  | highOnly => simp [byte_append_toNat]
  | lowThenHigh =>
    simp only [odd_loadState_iff]
    split
    · rw [byte_append_toNat, toNat_highByte]
    · rw [byte_append_toNat, toNat_lowByte]

theorem loaded_eq (ch : TimerChannel) (v : Byte) :
    loaded ch v = { ch with
      latch := mergeLatch ch.access ch.loadState ch.latch v, loadState := nextLoad ch.loadState } := by
  rw [loaded, ← toNat_mergeLatch, BitVec.ofNat_toNat, BitVec.setWidth_eq, nextLoad_eq]

theorem reload_latch (ch : TimerChannel) : reload ch.latch = latchCount ch := by
  simp only [reload, latchCount, ← BitVec.toNat_inj, BitVec.toNat_zero]

/-- A byte to a data port that makes loadState exactly 3 completes with what the finished load schedules (R214). -/
theorem completesAs_data_scheduling {s : State} {p : BitVec 2} {c : ChannelId} {v : Byte} {t : TimerId} {q : Rat}
    (hp : timerDataChannel p = some c) (h : (s.timer c).loadState.val = 2)
    (hq : (s.setTimer c (loaded (s.timer c) v)).loadComplete c = (s.setTimer c (loaded (s.timer c) v)).schedule t q) :
    CompletesAs (.hTimerWr p v) s ((s.setTimer c (loaded (s.timer c) v)).schedule t q) := by
  rw [CompletesAs, exec_hTimerWr, State.timerWrite_data s v hp, State.dataWrite_cases, if_pos h, ← hq, loaded_eq]

/-- Any other byte, and one whose finished load schedules nothing, only enters its channel (R214, R217). -/
theorem completesAs_data_silent {s : State} {p : BitVec 2} {c : ChannelId} {v : Byte}
    (hp : timerDataChannel p = some c) (h : (s.timer c).loadState.val = 2 →
      (s.setTimer c (loaded (s.timer c) v)).loadComplete c = s.setTimer c (loaded (s.timer c) v)) :
    CompletesAs (.hTimerWr p v) s (s.setTimer c (loaded (s.timer c) v)) := by
  rw [loaded_eq] at h ⊢
  rw [CompletesAs, exec_hTimerWr, State.timerWrite_data s v hp, State.dataWrite_cases]
  split
  next h2 => rw [h h2]
  next => rfl

theorem three_le_loaded {ch : TimerChannel} (v : Byte) (h : ch.loadState.val = 2) :
    3 ≤ (loaded ch v).loadState.val := by
  rw [loaded_eq, nextLoad_val, h]
  decide

theorem State.loadCompleteA_eq (s : State) :
    s.loadCompleteA = s.schedule .a (1000 / s.cfg.clkA * (latchCount s.chA : Rat)) := by
  rw [State.loadCompleteA, reload_latch]

/-- With both stages complete, Timer B is armed with the product of their counts (R217). -/
theorem State.loadCompleteB_of_complete {s : State} (h1 : 3 ≤ s.chB1.loadState.val) (h2 : 3 ≤ s.chB2.loadState.val) :
    s.loadCompleteB = s.schedule .b (1000 / s.cfg.clkB * (latchCount s.chB1 : Rat) * (latchCount s.chB2 : Rat)) := by
  rw [State.loadCompleteB, if_pos ⟨h1, h2⟩, reload_latch, reload_latch]

/-- Settles O35. The premise is not used: at loadState 0, which cannot occur (log entry 9), both merges take the high
half. -/
theorem timerADataWriteLoadsAndArms : Obligations.TimerADataWriteLoadsAndArms := fun _ _ _ =>
  ⟨fun h => completesAs_data_scheduling (c := .a) rfl h (State.loadCompleteA_eq _),
   fun h => completesAs_data_silent (c := .a) rfl fun h2 => absurd h2 h⟩

/-- Settles O36: the byte that completes a stage arms Timer B exactly if the other stage is complete. -/
theorem timerBDataWriteLoadsAndArms : Obligations.TimerBDataWriteLoadsAndArms := by
  intro s v
  refine ⟨fun _ => ⟨fun ⟨h, hother⟩ => ?_, fun h => ?_⟩, fun _ => ⟨fun ⟨h, hother⟩ => ?_, fun h => ?_⟩⟩
  · exact completesAs_data_scheduling (c := .b1) rfl h (State.loadCompleteB_of_complete (three_le_loaded v h) hother)
  · exact completesAs_data_silent (c := .b1) rfl fun h2 =>
      State.loadCompleteB_of_incomplete _ (.inr (h.resolve_left (not_not_intro h2)))
  · exact completesAs_data_scheduling (c := .b2) rfl h (State.loadCompleteB_of_complete hother (three_le_loaded v h))
  · exact completesAs_data_silent (c := .b2) rfl fun h2 =>
      State.loadCompleteB_of_incomplete _ (.inl (h.resolve_left (not_not_intro h2)))

/-! ## Reads and firings -/

/-- Settles O40: there is no read-back path. -/
theorem timerPortsReadZero : Obligations.TimerPortsReadZero := fun s _ => complete_eq (s.returnHost 0x00#8)

/-- Settles O43: the fire events are `fireIfArmed` of their timer. -/
theorem unarmedTimerHasNoFiring : Obligations.UnarmedTimerHasNoFiring := fun _ =>
  ⟨fireIfArmed_of_not_armed (t := .a), fireIfArmed_of_not_armed (t := .b)⟩

/-- Setting a bit if enabled, written as `State.fire` has it. -/
theorem ite_enable_eq_or (bit enable : Bool) : (if enable then true else bit) = (bit || enable) := by
  rw [Bool.if_true_left, Bool.decide_eq_true, Bool.or_comm]

/-- Settles O42: an armed timer completes in `State.fire`, and an unarmed one stops. -/
theorem firingSetsPendingIfEnabled : Obligations.FiringSetsPendingIfEnabled := by
  intro s
  obtain ⟨hstopA, hstopB⟩ := unarmedTimerHasNoFiring s
  rw [ite_enable_eq_or, ite_enable_eq_or]
  refine ⟨fireIfArmed_of_armed (t := .a), fireIfArmed_of_armed (t := .b), fun h t => ?_, fun h t => ?_⟩
  · simp [hstopA h]
  · simp [hstopB h]

end Sys2Proof.Machine

/-! PROOF. The InternalPortDecoder (R261-R269, R274, R277, R280): the queue data port, the chip port and the unmapped
sub-addresses. Every transaction here is `complete` of its own writes, which by `complete_eq` is what `CompletesAs`
says; what is left to say is which byte the queue data port moves and which port a diagnostic names. -/

namespace Sys2Proof.Machine

/-! ## Group 1: the queue data port -/

/-- A data read with no byte in the queue leaves the queue alone and returns a draw (R267, D7). -/
theorem exec_intQDataRd_of_nil (sss : BitVec 3) {s : State} (h : s.queue = []) :
    exec (.intQDataRd sss) s = .next (settled (s.draw.2.returnInternal s.draw.1)) := by
  show execIntQDataRd sss s = _
  rw [execIntQDataRd, State.dequeueOne_nil s h]
  exact complete_eq _

/-- Settles O29, by `exec_intQDataRd_of_cons` or `exec_intQDataRd_of_nil`, as the queue holds a byte or none. -/
theorem queueReadReturnsOldest : Obligations.QueueReadReturnsOldest := fun _ sss =>
  ⟨fun _ _ => exec_intQDataRd_of_cons sss, fun h => ⟨_, _, exec_intQDataRd_of_nil sss h⟩⟩

/-- Under `ignore` a data write leaves a diagnostic only (R269). -/
theorem exec_intQDataWr_of_ignore (sss : BitVec 3) (v : Byte) {s : State} (h : s.cfg.qDataWrite = .ignore) :
    exec (.intQDataWr sss v) s = .next (settled (s.log (.queueDataWrite v))) := by
  show execIntQDataWr sss v s = _
  rw [execIntQDataWr, h]
  exact complete_eq _

/-- Under `enqueue` a data write is the producer's enqueue of one byte (R269, R180). -/
theorem exec_intQDataWr_of_enqueue (sss : BitVec 3) (v : Byte) {s : State} (h : s.cfg.qDataWrite = .enqueue) :
    exec (.intQDataWr sss v) s = .next (settled (s.enqueue [v])) := by
  show execIntQDataWr sss v s = _
  rw [execIntQDataWr, h]
  exact complete_eq _

/-- One byte is appended exactly if the queue is short of its capacity (R38, R180). -/
theorem State.enqueue_singleton (s : State) (v : Byte) :
    s.enqueue [v] = { s with queue := if s.queue.length < 64 then s.queue ++ [v] else s.queue } := by
  rw [State.enqueue, queueCapacity]
  split
  next hroom => rw [List.take_of_length_le (by rw [List.length_singleton]; omega)]
  next hfull => rw [Nat.sub_eq_zero_of_le (Nat.le_of_not_lt hfull), List.take_zero, List.append_nil]

/-- Settles O30: one lemma for each value of `Q_DATA_WRITE`. -/
theorem queueDataWriteFollowsParameter : Obligations.QueueDataWriteFollowsParameter := by
  intro s sss v
  refine ⟨exec_intQDataWr_of_ignore sss v, fun h => ?_⟩
  rw [CompletesAs, exec_intQDataWr_of_enqueue sss v h, State.enqueue_singleton]

/-! ## Group 0: the chip port -/

/-- A status read calls the chip once and returns a draw (R263, R262, D35). -/
theorem exec_intChipStatusRd (sss : BitVec 3) (s : State) :
    exec (.intChipStatusRd sss) s =
      .next (settled ((s.callChip .status).draw.2.returnInternal (s.callChip .status).draw.1)) :=
  complete_eq _

/-- Settles O50: a write completes in its call, a status read in its call and a draw. -/
theorem chipPortForwards : Obligations.ChipPortForwards := fun s sss v =>
  ⟨complete_eq (s.callChip (.writeAddr v)), complete_eq (s.callChip (.writeData v)),
    _, _, exec_intChipStatusRd sss s⟩

/-! ## Unmapped sub-addresses -/

/-- The even sub-addresses of group 0 are the ports `2 * sss`. -/
theorem chipEvenPort_eq_ofNat : ∀ sss : BitVec 3, 0#2 ++ sss ++ 0#1 = BitVec.ofNat 6 (2 * sss.toNat) := by
  decide

/-- The sub-addresses of group 2 are the ports from 32. -/
theorem handshakePort_eq_ofNat : ∀ sub : BitVec 4, 2#2 ++ sub = BitVec.ofNat 6 (32 + sub.toNat) := by
  decide

/-- Settles O51: the three are the shared unmapped read and write, at ports which the statement writes as numbers. -/
theorem unmappedInternalPorts : Obligations.UnmappedInternalPorts := by
  intro s sss sub v
  rw [← chipEvenPort_eq_ofNat, ← handshakePort_eq_ofNat]
  exact ⟨unmappedInternalRead_eq _ s, unmappedInternalRead_eq _ s, unmappedInternalWrite_eq _ v s⟩

end Sys2Proof.Machine

/-! PROOF. The host port decoder (R311, R312, R316, R318, R320, R324, R325): the TCR write and the unmapped
sub-addresses. The model keeps a pending bit by `&&` with its enable and names a port by its bit fields; the statements
write both as numbers. -/

namespace Sys2Proof.Machine

/-! ## The timer control register -/

/-- Keeping a flag only under bit `i` of a byte, with the bit read off the byte's value. -/
theorem and_getLsbD_eq_ite (flag : Bool) (v : Byte) (i : Nat) :
    (flag && v.getLsbD i) = if v.toNat / 2 ^ i % 2 = 0 then false else flag := by
  rw [BitVec.getLsbD, Nat.testBit_eq_decide_div_mod_eq]
  split
  next hclear => simp [hclear]
  next hset => simp [Nat.mod_two_ne_zero.mp hset]

/-- `ENA` is the bit of weight 4 (R115). -/
theorem and_tcrEnA_eq_ite (flag : Bool) (v : Byte) :
    (flag && tcrEnA v) = if v.toNat / 4 % 2 = 0 then false else flag :=
  and_getLsbD_eq_ite flag v 2

/-- `ENB` is the bit of weight 8 (R115). -/
theorem and_tcrEnB_eq_ite (flag : Bool) (v : Byte) :
    (flag && tcrEnB v) = if v.toNat / 8 % 2 = 0 then false else flag :=
  and_getLsbD_eq_ite flag v 3

/-- A TCR write stores the byte and keeps the pending bits it enables; its own recomputation is the one that ends every
transaction (R324, R364). -/
theorem exec_hTcrWr (ss : BitVec 2) (v : Byte) (s : State) :
    exec (.hTcrWr ss v) s = .next (settled { s with
      tcr := v
      pending := { a := s.pending.a && tcrEnA v, b := s.pending.b && tcrEnB v } }) :=
  complete_recomputeHostIrq _

/-- Settles O44: a pending bit is kept exactly if its enable bit is set. -/
theorem tcrWriteStoresAndAcknowledges : Obligations.TcrWriteStoresAndAcknowledges := by
  intro s ss v
  rw [CompletesAs, exec_hTcrWr, and_tcrEnA_eq_ite, and_tcrEnB_eq_ite]

/-! ## Unmapped sub-addresses -/

/-- The unmapped writes below the handshake control are sub-addresses 0 and 2. -/
theorem lowWriteSub_eq_ofNat : ∀ b : BitVec 1, 0#2 ++ b ++ 0#1 = BitVec.ofNat 4 (2 * b.toNat) := by
  decide

/-- A quarter of the host window names the sub-addresses from four times its number (R106). -/
theorem quarterSub_eq_ofNat : ∀ q ss : BitVec 2, q ++ ss = BitVec.ofNat 4 (4 * q.toNat + ss.toNat) := by
  decide

/-- Settles O52: the four are the shared unmapped read and write, at ports which the statement writes as numbers. -/
theorem unmappedHostPorts : Obligations.UnmappedHostPorts := by
  intro s b ss v
  have htcr : 2#2 ++ ss = BitVec.ofNat 4 (8 + ss.toNat) := quarterSub_eq_ofNat 2#2 ss
  have htsr : 3#2 ++ ss = BitVec.ofNat 4 (12 + ss.toNat) := quarterSub_eq_ofNat 3#2 ss
  rw [← lowWriteSub_eq_ofNat, ← htcr, ← htsr]
  exact ⟨unmappedHostRead_eq _ s, unmappedHostRead_eq _ s, unmappedHostWrite_eq _ v s, unmappedHostWrite_eq _ v s⟩

end Sys2Proof.Machine

/-! PROOF. R361-R365, R381: the two interrupt conditions, and the delivery of the host's. An instruction other than
construction writes its own fields and then recomputes, once or twice; the line follows the first time, and the second
finds it settled (R364). -/

namespace Sys2Proof.Machine

/-! ## The conditions -/

/-- `GATE` on numbers: both top bits of TCR are set (R115). -/
theorem tcrGate_iff : ∀ tcr : Byte, tcrGate tcr = true ↔ tcr.toNat / 64 = 3 := by
  decide

theorem Channel.rxCond_iff (c : Channel) : c.rxCond = true ↔ c.ready = true ∧ c.rxEn = true :=
  Bool.and_eq_true_iff

theorem Channel.txCond_iff (c : Channel) : c.txCond = true ↔ c.ready = false ∧ c.txEn = true := by
  rw [Channel.txCond, Bool.and_eq_true_iff, Bool.not_eq_true']

/-- Settles O47: the pending bits and the two handshake conditions, under the gate. -/
theorem hostActiveCondition : Obligations.HostActiveCondition := fun s => by
  rw [State.hostActive, State.hsHost, Bool.and_eq_true_iff, tcrGate_iff]
  simp only [Bool.or_eq_true_iff, Channel.txCond_iff, Channel.rxCond_iff, or_assoc]

/-- Settles O48: of the four sources, two are handshake conditions. -/
theorem embeddedInterruptCondition : Obligations.EmbeddedInterruptCondition := fun s => by
  rw [State.cpuIrq]
  simp only [Bool.or_eq_true_iff, Channel.rxCond_iff, Channel.txCond_iff, or_assoc]

/-- Settles O49: the level is no term of the host's condition. -/
theorem chipLevelIsHeld : Obligations.ChipLevelIsHeld := fun _ _ => ⟨complete_eq _, rfl⟩

/-! ## The delivery -/

/-- Settles O45: the two branches of the recomputation. -/
theorem recomputeDeliversEdges : Obligations.RecomputeDeliversEdges := fun _ =>
  ⟨fun h => if_neg h.symm, fun h => if_pos h.symm⟩

/-- The line in `t` is the active condition, delivered since `s` by one edge if that is a transition (R363). -/
def DeliversLine (s t : State) : Prop :=
  t.hostIrqLevel = t.hostActive ∧
    t.out.irqEdges = s.out.irqEdges ++ (if t.hostActive = s.hostIrqLevel then [] else [t.hostActive])

/-- Recomputing delivers the line if the writes before it touched neither the level nor the edges. -/
theorem deliversLine_recomputeHostIrq {s u : State} (hl : u.hostIrqLevel = s.hostIrqLevel)
    (he : u.out.irqEdges = s.out.irqEdges) : DeliversLine s u.recomputeHostIrq := by
  rw [State.recomputeHostIrq_eq_settled]
  exact ⟨rfl, by rw [← hl, ← he, settled_irqEdges, settled_hostActive]⟩

theorem deliversLine_of_complete {s u t : State} (h : complete u = .next t) (hl : u.hostIrqLevel = s.hostIrqLevel)
    (he : u.out.irqEdges = s.out.irqEdges) : DeliversLine s t :=
  Host.Outcome.next.inj h ▸ deliversLine_recomputeHostIrq hl he

/-- What ends a transaction leaves a line already delivered as it is (R364). -/
theorem DeliversLine.of_complete {s u t : State} (hu : DeliversLine s u) (h : complete u = .next t) :
    DeliversLine s t := by
  rw [complete_eq_next.mp h, settled_eq_self hu.1]
  exact hu

/-- Every write to a channel delivers the line itself (R150-R154). -/
theorem deliversLine_setChan (s : State) (c : Chan) (x : Channel) :
    DeliversLine s (s.setChan c x).recomputeHostIrq :=
  deliversLine_recomputeHostIrq (s.setChan_hostIrqLevel c x) (by rw [State.setChan_out])

theorem State.fire_deliversLine (s : State) (t : TimerId) : DeliversLine s (settled (s.fire t)) :=
  (s.fire t).recomputeHostIrq_eq_settled ▸
    deliversLine_recomputeHostIrq (by cases t <;> rfl) (by cases t <;> rfl)

/-- Every instruction but construction delivers the line. The default case is that of the instructions which complete in
one state, written without a recomputation. -/
theorem exec_deliversLine {i : Instr} {s t : State} (hi : i ≠ .evReset) (h : exec i s = .next t) :
    DeliversLine s t := by
  cases i with
  | evReset => exact absurd rfl hi
  | evFireA | evFireB => exact fireIfArmed_eq_next h ▸ s.fire_deliversLine _
  | hPutH2d _ | intHsPutD2h _ => exact (deliversLine_setChan s _ _).of_complete h
  | intHsGetH2d => exact DeliversLine.of_complete (u := (s.get .h2d).2.returnInternal _) (deliversLine_setChan s _ _) h
  | hGetD2h => exact DeliversLine.of_complete (u := (s.get .d2h).2.returnHost _) (deliversLine_setChan s _ _) h
  | intHsCtrlWr _ =>
    replace h : complete (ite _ _ (ite _ _ (ite _ _ _))) = .next t := h
    split_ifs at h
    · exact (deliversLine_setChan s _ _).of_complete h
    · exact (deliversLine_setChan s _ _).of_complete h
    · exact deliversLine_of_complete h rfl rfl
    · exact deliversLine_of_complete h rfl rfl
  | hCtrlWr _ =>
    replace h : complete (ite _ _ (ite _ _ _)) = .next t := h
    split_ifs at h
    · exact (deliversLine_setChan s _ _).of_complete h
    · exact (deliversLine_setChan s _ _).of_complete h
    · exact deliversLine_of_complete h rfl rfl
  | intQDataRd sss =>
    obtain ⟨v, n, hc⟩ := execIntQDataRd_eq_complete sss s
    exact deliversLine_of_complete (hc.symm.trans h) rfl rfl
  | intQDataWr _ _ | intG3Rd _ => refine deliversLine_of_complete h ?_ ?_ <;> split <;> rfl
  | intG3Wr _ _ => refine deliversLine_of_complete h ?_ ?_ <;> split <;> simp [State.log]
  | hTimerWr p v => exact deliversLine_of_complete h (s.timerWrite_hostIrqLevel p v) (s.timerWrite_irqEdges p v)
  | hTcrWr ss v =>
    rw [exec_hTcrWr, ← complete_eq] at h
    exact deliversLine_of_complete h rfl rfl
  | _ => exact deliversLine_of_complete h rfl rfl

/-- Settles O46: construction leaves the reset values, under which the host's condition is false (R401). -/
theorem hostLineIsEdgeTriggered : Obligations.HostLineIsEdgeTriggered := by
  intro i s t h
  by_cases hi : i = .evReset
  · subst hi
    obtain ⟨-, rfl⟩ := execEvReset_eq_next h
    exact ⟨rfl, absurd rfl, fun _ => ⟨rfl, List.append_nil _⟩⟩
  · obtain ⟨hl, he⟩ := exec_deliversLine hi h
    exact ⟨hl, fun _ => he, fun h => absurd h hi⟩

end Sys2Proof.Machine

/-! PROOF. R374, R326: what each bus cannot reach. For the internal bus the frame is said once, as the part of the state
no internal transaction writes (`State.hostSide`); for the host, as the part that may be replaced before a transaction
or after it (`State.withDeviceSide`). -/

namespace Sys2Proof.Machine

/-! ## The internal bus reaches no host register -/

/-- The state without what the internal bus can reach under `Unmapped`: of H2D the ready flag and the device's enable,
of D2H all but the host's enable, the extra-flag, the queue, the delivery of the host interrupt, the draws, and the
outputs to the device, the chip and the log. -/
def State.hostSide (s : State) : State :=
  { s with
    h2d := { s.h2d with ready := false, rxEn := false }
    d2h := { s.d2h with value := 0, ready := false, txEn := false }
    extra := false, queue := [], queueMode := 0, hostIrqLevel := false, draws := 0
    out := { s.out with intReads := [], irqEdges := [], chipCalls := [], diags := [] } }

@[simp] theorem settled_hostSide (u : State) : (settled u).hostSide = u.hostSide := rfl

theorem complete_hostSide {s u t : State} (h : complete u = .next t) (hu : u.hostSide = s.hostSide) :
    t.hostSide = s.hostSide := by
  rw [complete_eq_next.mp h, settled_hostSide, hu]

@[simp] theorem State.recomputeHostIrq_hostSide (s : State) : s.recomputeHostIrq.hostSide = s.hostSide := by
  rw [State.recomputeHostIrq_eq_settled, settled_hostSide]

/-- An internal transaction keeps the host's side, or it is a group 3 write under `TimerPorts`, which is a timer write
(R279). -/
theorem exec_internal_cases {i : Instr} {s t : State} (hi : i.format = .internal) (h : exec i s = .next t) :
    t.hostSide = s.hostSide ∨ (s.cfg.g3Map = .timerPorts ∧ ∃ p v, t = settled (s.timerWrite p v)) := by
  cases i with
  | intG3Wr sub v =>
    replace h : complete _ = .next t := h
    split at h
    next => exact .inl (complete_hostSide h rfl)
    next hg => exact .inr ⟨hg, _, v, complete_eq_next.mp h⟩
  | intQDataRd sss =>
    obtain ⟨v, n, hc⟩ := execIntQDataRd_eq_complete sss s
    exact .inl (complete_hostSide (hc.symm.trans h) rfl)
  | intHsGetH2d =>
    exact .inl (complete_hostSide h (s.setChan .h2d { s.h2d with ready := false }).recomputeHostIrq_hostSide)
  | intHsPutD2h v => exact .inl (complete_hostSide h (State.recomputeHostIrq_hostSide _))
  | intHsCtrlWr v =>
    refine .inl (complete_hostSide h ?_)
    split_ifs
    · exact State.recomputeHostIrq_hostSide _
    · exact State.recomputeHostIrq_hostSide _
    · rfl
    · rfl
  | intQDataWr _ _ | intG3Rd _ =>
    refine .inl (complete_hostSide h ?_)
    split <;> rfl
  | intChipRdEven _ | intChipStatusRd _ | intChipAddrWr _ _ | intChipDataWr _ _ | intQStatusRd _ | intQCmdWr _ _
  | intHsPeekD2h | intHsStatusRd | intHsRdUnmapped _ | intHsWrUnmapped _ _ => exact .inl (complete_hostSide h rfl)
  | _ => cases hi

@[simp] theorem State.timerWrite_hostReads (s : State) (p : BitVec 2) (v : Byte) :
    (s.timerWrite p v).out.hostReads = s.out.hostReads :=
  (congrArg (fun u : State => u.out.hostReads) (s.timerWrite_offTimers p v) :)

/-- Settles O60: the host's side holds all these fields, and a timer write reaches none of them but the timers. -/
theorem internalBusReachesNoHostRegister : Obligations.InternalBusReachesNoHostRegister := by
  intro i s t hi h
  obtain hside | ⟨hmap, p, v, rfl⟩ := exec_internal_cases hi h
  · simp only [State.hostSide, State.mk.injEq, Channel.mk.injEq, Outputs.mk.injEq] at hside
    simp [hside]
  · simp [hmap]

/-! ## The device side does not reach the host -/

/-- Another queue, queue command register and chip level in the place of those of `s`. -/
def State.withDeviceSide (q : List Byte) (m : Byte) (l : Bool) (s : State) : State :=
  { s with queue := q, queueMode := m, chipIrq := l }

section
variable (q : List Byte) (m : Byte) (l : Bool) (s : State)

@[simp] theorem State.withDeviceSide_cfg : (s.withDeviceSide q m l).cfg = s.cfg := rfl
@[simp] theorem State.withDeviceSide_timer (c : ChannelId) : (s.withDeviceSide q m l).timer c = s.timer c := by
  cases c <;> rfl

@[simp] theorem State.log_withDeviceSide (d : Diag) :
    (s.withDeviceSide q m l).log d = (s.log d).withDeviceSide q m l := rfl

theorem State.recomputeHostIrq_withDeviceSide :
    (s.withDeviceSide q m l).recomputeHostIrq = s.recomputeHostIrq.withDeviceSide q m l := by
  simp only [State.recomputeHostIrq_eq_settled]
  rfl

/-- A write to a channel and the recomputation that ends it (R150-R154). -/
theorem State.setChan_withDeviceSide (c : Chan) (x : Channel) :
    ((s.withDeviceSide q m l).setChan c x).recomputeHostIrq =
      (s.setChan c x).recomputeHostIrq.withDeviceSide q m l := by
  have hc : (s.withDeviceSide q m l).setChan c x = (s.setChan c x).withDeviceSide q m l := by cases c <;> rfl
  rw [hc, State.recomputeHostIrq_withDeviceSide]

@[simp] theorem State.setRxInterruptEnabled_withDeviceSide (c : Chan) (e : Bool) :
    (s.withDeviceSide q m l).setRxInterruptEnabled c e = (s.setRxInterruptEnabled c e).withDeviceSide q m l := by
  cases c <;> exact State.setChan_withDeviceSide ..

@[simp] theorem State.setTxInterruptEnabled_withDeviceSide (c : Chan) (e : Bool) :
    (s.withDeviceSide q m l).setTxInterruptEnabled c e = (s.setTxInterruptEnabled c e).withDeviceSide q m l := by
  cases c <;> exact State.setChan_withDeviceSide ..

@[simp] theorem State.setTimer_withDeviceSide (c : ChannelId) (x : TimerChannel) :
    (s.withDeviceSide q m l).setTimer c x = (s.setTimer c x).withDeviceSide q m l := by
  cases c <;> rfl

@[simp] theorem State.cancel_withDeviceSide (t : TimerId) :
    (s.withDeviceSide q m l).cancel t = (s.cancel t).withDeviceSide q m l := by
  cases t <;> rfl

theorem State.loadCompleteB_withDeviceSide :
    (s.withDeviceSide q m l).loadCompleteB = s.loadCompleteB.withDeviceSide q m l := by
  simp only [State.loadCompleteB, apply_ite (State.withDeviceSide q m l)]
  rfl

@[simp] theorem State.loadComplete_withDeviceSide (c : ChannelId) :
    (s.withDeviceSide q m l).loadComplete c = (s.loadComplete c).withDeviceSide q m l := by
  cases c with
  | a => rfl
  | b1 | b2 => exact s.loadCompleteB_withDeviceSide q m l

theorem State.dataWrite_withDeviceSide (c : ChannelId) (v : Byte) :
    (s.withDeviceSide q m l).dataWrite c v = (s.dataWrite c v).withDeviceSide q m l := by
  simp [State.dataWrite, apply_ite (State.withDeviceSide q m l)]

theorem State.programChannel_withDeviceSide (c : ChannelId) (v : Byte) :
    (s.withDeviceSide q m l).programChannel c v = (s.programChannel c v).withDeviceSide q m l := by
  simp [State.programChannel, apply_ite (State.withDeviceSide q m l)]

theorem State.controlWrite_withDeviceSide (v : Byte) :
    (s.withDeviceSide q m l).controlWrite v = (s.controlWrite v).withDeviceSide q m l := by
  unfold State.controlWrite
  split
  · exact State.programChannel_withDeviceSide ..
  · rfl

theorem State.timerWrite_withDeviceSide (p : BitVec 2) (v : Byte) :
    (s.withDeviceSide q m l).timerWrite p v = (s.timerWrite p v).withDeviceSide q m l := by
  unfold State.timerWrite
  split
  · exact State.dataWrite_withDeviceSide ..
  · exact State.controlWrite_withDeviceSide ..

end

/-- Where the writes before the end of a transaction do not depend on the device side, nor does the transaction. -/
theorem complete_withDeviceSide {u u' t : State} {q : List Byte} {m : Byte} {l : Bool}
    (hu : u' = u.withDeviceSide q m l) (h : complete u = .next t) :
    complete u' = .next (t.withDeviceSide q m l) := by
  rw [hu, complete_eq_next.mp h]
  exact complete_eq _

/-- Settles O59: each host transaction is `complete` of writes that take the device side over as it is. The default case
is that of the reads without effect and the unmapped ports. -/
theorem queueAndChipDoNotReachHost : Obligations.QueueAndChipDoNotReachHost := by
  intro i s t q m l hi h
  show exec i (s.withDeviceSide q m l) = .next (t.withDeviceSide q m l)
  cases i with
  | hGetD2h =>
    refine complete_withDeviceSide ?_ h
    exact congrArg (State.returnHost · s.d2h.value)
      (s.setChan_withDeviceSide q m l .d2h { s.d2h with ready := false })
  | hPutH2d v =>
    exact complete_withDeviceSide (s.setChan_withDeviceSide q m l .h2d { s.h2d with value := v, ready := true }) h
  | hCtrlWr v => exact complete_withDeviceSide (by simp [apply_ite (State.withDeviceSide q m l)]) h
  | hTimerWr p v => exact complete_withDeviceSide (s.timerWrite_withDeviceSide q m l p v) h
  | hTcrWr ss v =>
    rw [exec_hTcrWr, ← complete_eq] at h ⊢
    exact complete_withDeviceSide rfl h
  | hPeekH2d | hStatusRd | hRd3 | hTimerRd _ | hRdTcrSpace _ | hTsrRd _ | hWr02 _ _ | hWrTsrSpace _ _ =>
    exact complete_withDeviceSide rfl h
  | _ => cases hi

end Sys2Proof.Machine

/-! PROOF. R366, R380: what the embedded processor's acknowledge does, and which items stop without firmware. -/

namespace Sys2Proof.Machine

/-- Settles O12: the acknowledge leads nowhere, and without an item there is nothing to take. -/
theorem acknowledgeAndIdleChangeNothing : Obligations.AcknowledgeAndIdleChangeNothing :=
  ⟨fun _ rest hp hf => step_issue_elsewhere rest hp (route_of_running (.inr hf)), fun s hp hi => by
    unfold step
    rw [hi]
    cases hph : s.phase with
    | tornDown => exact absurd hph hp
    | unbuilt | running => rfl⟩

/-- Without firmware an item of the embedded side stops a running device (R380, D28). -/
theorem step_issue_no_firmware {s : State} {c : Cycle} (rest : List Cycle) (hs : s.phase = .running)
    (hf : s.cfg.fwPresent = false) (hc : c.needsFirmware = true) :
    step { s with inbox := c :: rest } = .fault .firmwareAbsent :=
  step_issue_stop rest hs (route_of_no_firmware hc hf)

/-- An event that is not the chip's runs, with or without firmware (R102). -/
theorem step_issue_event {s : State} {code : BitVec 4} {operands : List Byte} {i : Instr} (rest : List Cycle)
    (hs : s.phase = .running) (hc : (Cycle.event code operands).needsFirmware = false)
    (hd : decodeEvent (code.setWidth 8) operands = .ok i) :
    step { s with inbox := .event code operands :: rest } = exec i { s with inbox := rest } :=
  step_issue_packet rest hs (route_of_running (.inl hc)) hd

/-- Settles O10: the embedded side's items need firmware, the producer's and the scheduler's events do not. -/
theorem noFirmwareSilencesEmbeddedSide : Obligations.NoFirmwareSilencesEmbeddedSide :=
  fun _ _ _ operands rest hp hf =>
  ⟨step_issue_no_firmware rest hp hf rfl, step_issue_no_firmware rest hp hf rfl,
    step_issue_no_firmware rest hp hf rfl, step_issue_no_firmware rest hp hf rfl,
    step_issue_event rest hp rfl (decodeEvent_enqueue operands), step_issue_event rest hp rfl decodeEvent_fireA,
    step_issue_event rest hp rfl decodeEvent_fireB⟩

end Sys2Proof.Machine

/-! PROOF. R75, R214, R217, R408, R409: loads of the timer channels as whole runs. The host line's delivery and the
timers are apart, so the two bytes of a load settle once, at their end, and a load is one equation for every channel. -/

namespace Sys2Proof.Machine

/-! ## The line's delivery and the timers are apart -/

theorem settled_setTimer (u : State) (c : ChannelId) (x : TimerChannel) :
    (settled u).setTimer c x = settled (u.setTimer c x) := by
  cases c <;> rfl

theorem settled_loadCompleteB (u : State) : (settled u).loadCompleteB = settled u.loadCompleteB := by
  simp only [State.loadCompleteB, apply_ite settled]
  rfl

theorem settled_loadComplete (u : State) (c : ChannelId) :
    (settled u).loadComplete c = settled (u.loadComplete c) := by
  cases c with
  | a => rfl
  | b1 | b2 => exact settled_loadCompleteB u

@[simp] theorem State.setTimer_setTimer (s : State) (c : ChannelId) (x y : TimerChannel) :
    (s.setTimer c x).setTimer c y = s.setTimer c y := by
  cases c <;> rfl

@[simp] theorem settled_armed (u : State) (t : TimerId) : (settled u).armed t = u.armed t := by
  cases t <;> rfl

/-! ## The two bytes of a load -/

theorem loaded_low (m : BitVec 4) (latch : LatchWord) (low : Byte) :
    loaded ⟨.lowThenHigh, m, latch, 1⟩ low = ⟨.lowThenHigh, m, mergeLatch .lowThenHigh 1 latch low, 2⟩ :=
  loaded_eq ..

theorem loaded_high (m : BitVec 4) (latch : LatchWord) (low high : Byte) :
    loaded ⟨.lowThenHigh, m, mergeLatch .lowThenHigh 1 latch low, 2⟩ high = ⟨.lowThenHigh, m, high ++ low, 3⟩ := by
  rw [loaded_eq, mergeLatch_low_high]
  rfl

/-- The two bytes of a low-then-high load put both into the latch and complete the load, on any channel. -/
theorem execAll_twoBytes {s : State} {p : BitVec 2} {c : ChannelId} {m : BitVec 4} {latch : LatchWord}
    (hp : timerDataChannel p = some c) (h : s.timer c = ⟨.lowThenHigh, m, latch, 1⟩) (low high : Byte) :
    execAll [.hTimerWr p low, .hTimerWr p high] s =
      .next (settled ((s.setTimer c ⟨.lowThenHigh, m, high ++ low, 3⟩).loadComplete c)) := by
  have hlow : s.timerWrite p low = s.setTimer c ⟨.lowThenHigh, m, mergeLatch .lowThenHigh 1 latch low, 2⟩ := by
    rw [State.timerWrite_data s low hp, State.dataWrite_cases, ← loaded_eq, h, loaded_low]
    rfl
  have hhigh : (settled (s.timerWrite p low)).timerWrite p high =
      settled ((s.setTimer c ⟨.lowThenHigh, m, high ++ low, 3⟩).loadComplete c) := by
    rw [State.timerWrite_data _ high hp, State.dataWrite_cases, ← loaded_eq, hlow, settled_timer,
      State.timer_setTimer, loaded_high, settled_setTimer, State.setTimer_setTimer]
    exact settled_loadComplete ..
  rw [execAll_cons _ (exec_hTimerWr ..), execAll_cons _ (exec_hTimerWr ..), hhigh, settled_settled]
  rfl

/-! ## The two stages of Timer B -/

theorem State.loadComplete_of_b {c : ChannelId} (hc : timerOf c = .b) (s : State) :
    s.loadComplete c = s.loadCompleteB := by
  cases c with
  | a => cases hc
  | b1 | b2 => rfl

theorem State.loadCompleteB_of_not_loaded {s : State} (h : ¬ s.Loaded .b) : s.loadCompleteB = s :=
  if_neg fun hl => h (State.loaded_b.mpr hl)

/-- After low-then-high control words for both stages, the load of the one arms nothing, for the other is not complete,
and the load of the other completes both. -/
theorem execAll_bothStages {s : State} {p q : BitVec 2} {c d : ChannelId} {m n : BitVec 4} {latch latch' : LatchWord}
    (hp : timerDataChannel p = some c) (hq : timerDataChannel q = some d) (hc : timerOf c = .b) (hd : timerOf d = .b)
    (hcd : c ≠ d) (h : s.timer c = ⟨.lowThenHigh, m, latch, 1⟩) (h' : s.timer d = ⟨.lowThenHigh, n, latch', 1⟩)
    (low high low' high' : Byte) :
    ∃ t, execAll [.hTimerWr p low, .hTimerWr p high] s = .next t ∧ t.armedB = s.armedB ∧
      execAll [.hTimerWr q low', .hTimerWr q high'] t =
        .next (settled ((s.setTimer c ⟨.lowThenHigh, m, high ++ low, 3⟩).setTimer d
          ⟨.lowThenHigh, n, high' ++ low', 3⟩).loadCompleteB) := by
  have hother : (s.setTimer c ⟨.lowThenHigh, m, high ++ low, 3⟩).timer d = ⟨.lowThenHigh, n, latch', 1⟩ := by
    rw [State.timer_setTimer_of_ne s _ hcd, h']
  have hopen : ¬ (s.setTimer c ⟨.lowThenHigh, m, high ++ low, 3⟩).Loaded .b := fun hl => by
    have h3 := hl d hd
    rw [hother] at h3
    exact absurd h3 (by decide : ¬ 3 ≤ (1 : Fin 6).val)
  have hfirst := execAll_twoBytes hp h low high
  rw [State.loadComplete_of_b hc, State.loadCompleteB_of_not_loaded hopen] at hfirst
  refine ⟨_, hfirst, by simp, ?_⟩
  rw [execAll_twoBytes hq ((settled_timer ..).trans hother), State.loadComplete_of_b hd, settled_setTimer,
    settled_loadCompleteB, settled_settled]

/-- `SC` = 1 or 2 and `RW` = 3 select a stage of Timer B for a low-then-high load (R112). -/
theorem control_lowThenHighB : ∀ v : Byte,
    (v.toNat / 16 = 7 → timerSelect v = some .b1 ∧ timerAccess v = .lowThenHigh) ∧
    (v.toNat / 16 = 11 → timerSelect v = some .b2 ∧ timerAccess v = .lowThenHigh) := by
  decide

theorem programmed_lowThenHigh (ch : TimerChannel) {v : Byte} (h : timerAccess v = .lowThenHigh) :
    programmed ch v = ⟨.lowThenHigh, timerOpMode v, ch.latch, 1⟩ := by
  rw [programmed_eq, h]
  rfl

/-- A low-then-high control word puts its channel at the beginning of a load and unarms its timer; the other channels
and the parameters stay (R211). -/
theorem exec_control_lowThenHigh {v : Byte} {c : ChannelId} (s : State) (hsel : timerSelect v = some c)
    (hacc : timerAccess v = .lowThenHigh) :
    ∃ u, exec (.hTimerWr 3#2 v) s = .next u ∧ u.timer c = ⟨.lowThenHigh, timerOpMode v, (s.timer c).latch, 1⟩ ∧
      (∀ d, c ≠ d → u.timer d = s.timer d) ∧ u.armed (timerOf c) = none ∧ u.cfg = s.cfg := by
  refine ⟨_, completesAs_control s hsel, ?_, fun d hd => ?_, ?_, ?_⟩
  · simp [State.cancel_setTimer, programmed_lowThenHigh _ hacc]
  · simp [State.cancel, State.timer_setTimer_of_ne s _ hd]
  · simp
  · simp

/-- Low-then-high control words for both stages leave Timer B unarmed and both loads about to begin. -/
theorem execAll_programBothStages (s : State) {v1 v2 : Byte} (h1 : v1.toNat / 16 = 7) (h2 : v2.toNat / 16 = 11) :
    ∃ u, (∀ is, execAll (.hTimerWr 3#2 v1 :: .hTimerWr 3#2 v2 :: is) s = execAll is u) ∧
      u.timer .b1 = ⟨.lowThenHigh, timerOpMode v1, s.chB1.latch, 1⟩ ∧
      (∃ latch, u.timer .b2 = ⟨.lowThenHigh, timerOpMode v2, latch, 1⟩) ∧ u.armedB = none ∧ u.cfg = s.cfg := by
  obtain ⟨hsel1, hacc1⟩ := (control_lowThenHighB v1).1 h1
  obtain ⟨hsel2, hacc2⟩ := (control_lowThenHighB v2).2 h2
  obtain ⟨t, hrun1, hb1, -, -, hcfg1⟩ := exec_control_lowThenHigh s hsel1 hacc1
  obtain ⟨u, hrun2, hb2, hkeep, harm, hcfg2⟩ := exec_control_lowThenHigh t hsel2 hacc2
  exact ⟨u, fun is => (execAll_cons _ hrun1).trans (execAll_cons is hrun2), (hkeep .b1 (by decide)).trans hb1,
    ⟨_, hb2⟩, harm, hcfg2.trans hcfg1⟩

/-- With both loads complete Timer B is armed with the product of the counts loaded (R217). -/
theorem State.loadCompleteB_armedB {s : State} {cfg : Params} {m1 m2 : BitVec 4} {l1 h1 l2 h2 : Byte}
    (hcfg : s.cfg = cfg) (hb1 : s.chB1 = ⟨.lowThenHigh, m1, h1 ++ l1, 3⟩)
    (hb2 : s.chB2 = ⟨.lowThenHigh, m2, h2 ++ l2, 3⟩) :
    s.loadCompleteB.armedB = some (1000 / cfg.clkB *
      ((if 256 * h1.toNat + l1.toNat = 0 then 65536 else 256 * h1.toNat + l1.toNat : Nat) : Rat) *
      ((if 256 * h2.toNat + l2.toNat = 0 then 65536 else 256 * h2.toNat + l2.toNat : Nat) : Rat)) := by
  rw [State.loadCompleteB_of_complete (congrArg (·.loadState.val) hb1).ge (congrArg (·.loadState.val) hb2).ge,
    hcfg, hb1, hb2]
  simp only [latchCount, byte_append_toNat]
  rfl

/-- Settles O38: `execAll_bothStages` with B1 loaded first, and with B2 loaded first. -/
theorem timerBArmedByBothStages : Obligations.TimerBArmedByBothStages := by
  intro s v1 v2 l1 h1 l2 h2 hv1 hv2
  obtain ⟨u, hprog, hb1, ⟨_, hb2⟩, hunarmed, hcfg⟩ := execAll_programBothStages s hv1 hv2
  constructor
  · obtain ⟨t, hfirst, harm, hsecond⟩ :=
      execAll_bothStages (p := 1#2) (q := 2#2) rfl rfl rfl rfl (by decide) hb1 hb2 l1 h1 l2 h2
    exact ⟨t, _, (hprog _).trans hfirst, harm.trans hunarmed, hsecond, State.loadCompleteB_armedB hcfg rfl rfl⟩
  · obtain ⟨t, hfirst, harm, hsecond⟩ :=
      execAll_bothStages (p := 2#2) (q := 1#2) rfl rfl rfl rfl (by decide) hb2 hb1 l2 h2 l1 h1
    exact ⟨t, _, (hprog _).trans hfirst, harm.trans hunarmed, hsecond, State.loadCompleteB_armedB hcfg rfl rfl⟩

/-! ## Bytes after a completed load -/

theorem three_le_loaded_of_complete {ch : TimerChannel} (v : Byte) (h : 3 ≤ ch.loadState.val) :
    3 ≤ (loaded ch v).loadState.val := by
  rw [loaded_eq]
  exact three_le_nextLoad h

/-- Bytes to a channel whose load is complete only enter the channel, by induction on the bytes: `loadState` never
comes back to 2, where the next byte would complete a load (R214). -/
theorem execAll_lateBytes {p : BitVec 2} {c : ChannelId} (t : TimerId) (hp : timerDataChannel p = some c)
    (vs : List Byte) {s : State} (h : 3 ≤ (s.timer c).loadState.val) :
    ∃ u, execAll (vs.map (Instr.hTimerWr p)) s = .next u ∧
      u.armed t = s.armed t ∧ 3 ≤ (u.timer c).loadState.val ∧ u.out.schedCalls = s.out.schedCalls := by
  induction vs generalizing s with
  | nil => exact ⟨s, rfl, rfl, h, rfl⟩
  | cons v vs ih =>
    have hbyte : CompletesAs (.hTimerWr p v) s (s.setTimer c (loaded (s.timer c) v)) :=
      completesAs_data_silent hp fun h2 => absurd h (by rw [h2]; decide)
    obtain ⟨u, hrun, harm, hload, hcalls⟩ := ih (s := settled (s.setTimer c (loaded (s.timer c) v))) (by
      rw [settled_timer, State.timer_setTimer]
      exact three_le_loaded_of_complete v h)
    exact ⟨u, (execAll_cons _ hbyte).trans hrun, harm.trans (by simp), hload, hcalls.trans (by simp)⟩

/-- Settles O39: `execAll_lateBytes` on each data port. -/
theorem lateDataBytesDoNotRearm : Obligations.LateDataBytesDoNotRearm := fun _ vs =>
  ⟨execAll_lateBytes (c := .a) .a rfl vs, execAll_lateBytes (c := .b1) .b rfl vs,
    execAll_lateBytes (c := .b2) .b rfl vs⟩

end Sys2Proof.Machine

/-! PROOF. R400-R403: the lifecycle of a session. Only construction and teardown write the phase; the reset state is
what construction leaves of a session not yet begun, so what is known of construction is known of it. -/

namespace Sys2Proof.Machine

/-! ## What keeps the phase -/

theorem complete_phase {s u t : State} (h : complete u = .next t) (hu : u.phase = s.phase) : t.phase = s.phase := by
  rw [complete_eq_next.mp h, settled_phase, hu]

@[simp] theorem State.recomputeHostIrq_phase (s : State) : s.recomputeHostIrq.phase = s.phase := by
  rw [State.recomputeHostIrq_eq_settled, settled_phase]

/-- Every write to a channel ends in a recomputation (R150-R154). -/
theorem State.setChan_recompute_phase (s : State) (c : Chan) (x : Channel) :
    (s.setChan c x).recomputeHostIrq.phase = s.phase := by
  simp

theorem State.fire_phase (s : State) (t : TimerId) : (s.fire t).phase = s.phase := by cases t <;> rfl

theorem exec_internal_phase {i : Instr} {s t : State} (hi : i.format = .internal) (h : exec i s = .next t) :
    t.phase = s.phase := by
  obtain hside | ⟨-, p, v, rfl⟩ := exec_internal_cases hi h
  · exact (congrArg State.phase hside :)
  · exact s.timerWrite_phase p v

/-- Every instruction but construction keeps the phase. -/
theorem exec_keeps_phase {i : Instr} {s t : State} (hi : i ≠ .evReset) (h : exec i s = .next t) :
    t.phase = s.phase := by
  by_cases hf : i.format = .internal
  · exact exec_internal_phase hf h
  cases i with
  | evReset => exact absurd rfl hi
  | evFireA | evFireB => exact fireIfArmed_eq_next h ▸ s.fire_phase _
  | hPutH2d v => exact complete_phase h (s.setChan_recompute_phase ..)
  | hGetD2h => exact complete_phase h (s.setChan_recompute_phase .d2h { s.d2h with ready := false })
  | hCtrlWr v =>
    refine complete_phase h ?_
    split_ifs
    · exact s.setChan_recompute_phase ..
    · exact s.setChan_recompute_phase ..
    · rfl
  | hTimerWr p v => exact complete_phase h (s.timerWrite_phase p v)
  | hTcrWr ss v => exact complete_phase h (State.recomputeHostIrq_phase _)
  | hPeekH2d | hStatusRd | hRd3 | hTimerRd _ | hRdTcrSpace _ | hTsrRd _ | hWr02 _ _ | hWrTsrSpace _ _
  | evEnqueue _ | evChipLevel _ => exact complete_phase h rfl
  | _ => exact absurd rfl hf

/-- Once constructed, a device never comes back to a session not yet begun (R400). -/
theorem step_keeps_built {s t : State} (hs : s.phase ≠ .unbuilt) (h : step s = .next t) : t.phase ≠ .unbuilt := by
  obtain ⟨-, -, rfl⟩ | ⟨_, rest, -, ⟨-, rfl | rfl | ⟨i, hi⟩⟩ | ⟨hp, -⟩⟩ := step_eq_next h
  · exact hs
  · exact hs
  · exact (by decide : Phase.tornDown ≠ .unbuilt)
  · have hne : i ≠ .evReset := by
      rintro rfl
      exact hs (execEvReset_eq_next hi).1
    rw [exec_keeps_phase hne hi]
    exact hs
  · exact absurd hp hs

/-! ## What the lifecycle stops -/

theorem step_stopped {s : State} {f : Fault} (h : s.phase.stops s.inbox.head? = some f) : step s = .fault f := by
  unfold step
  rw [h]

theorem constructs_eq_false {c : Cycle} (h : ∀ operands, c ≠ .event 0#4 operands) : c.constructs = false :=
  Bool.eq_false_iff.mpr fun hc => by
    obtain ⟨operands, rfl, -⟩ := route_of_constructs (cfg := .reference) hc
    exact h operands rfl

/-! ## The reset state -/

/-- The reset state is what construction makes of a session not yet begun. -/
theorem settled_construct_unbuilt : settled State.unbuilt.construct = State.reset := rfl

/-- R7 for the reference parameters, whatever the clocks. -/
theorem Params.reference_wf : Params.reference.Wf where
  portBits := by decide
  clkA_pos := by
    show 0 < ((Config.clkANum : Rat) + 1) / ((Config.clkADen : Rat) + 1)
    positivity
  clkB_pos := by
    show 0 < ((Config.clkBNum : Rat) + 1) / ((Config.clkBDen : Rat) + 1)
    positivity
  hsPos_nodup := by decide
  qStatPos_nodup := by decide

/-! ## The obligations -/

/-- Settles O54: the lifecycle stops every other item before construction; after it `EV_RESET` is a fault and no step
leads back; and construction of the session not yet begun is the reset state. -/
theorem constructionIsFirstAndOnce : Obligations.ConstructionIsFirstAndOnce := by
  refine ⟨fun s c rest hp hi hc => step_stopped ?_, fun _ => execEvReset_of_built, fun _ _ => step_keeps_built, ?_⟩
  · rw [hp, hi, List.head?_cons, Phase.stops, constructs_eq_false hc]
    rfl
  · exact (execEvReset_of_unbuilt rfl).trans (congrArg _ settled_construct_unbuilt)

/-- Settles O11: the item leads to `State.tearDown`, and the lifecycle stops whatever would come after it. -/
theorem teardownEndsTheSession : Obligations.TeardownEndsTheSession :=
  ⟨fun s rest hp => ⟨({ s with inbox := rest } : State).tearDown, step_issue .teardown rest hp,
      rfl, rfl, rfl, rfl, rfl, rfl⟩,
    fun s hp => step_stopped (by rw [hp, Phase.stops_tornDown])⟩

/-- Settles O55: at the values of R401 no channel meets a condition, nothing is pending and no enable is set. -/
theorem outputsLowAfterReset : Obligations.OutputsLowAfterReset :=
  ⟨rfl, rfl, rfl, rfl, rfl, rfl⟩

/-- Settles O56: what construction leaves of a session in which nothing has been put out is safe, and that is the reset
state. -/
theorem resetStateIsSafe : Obligations.ResetStateIsSafe := by
  rw [Obligations.ResetStateIsSafe, ← settled_construct_unbuilt]
  exact (State.construct_settleable (s := .unbuilt) Params.reference_wf rfl).inv_settled

end Sys2Proof.Machine

/-! PROOF. R107-R109, R276, R322: the handshake control words. The model takes a word apart by bit fields and compares
its select with positions; the statements write both as numbers. Each side's word chooses between its own flags. -/

namespace Sys2Proof.Machine

/-- `val` is the bit of weight `2 ^ CW_VAL_BIT` (R107). -/
theorem controlVal_eq (cfg : Params) (v : Byte) :
    controlVal cfg v = decide (v.toNat / 2 ^ cfg.cwValBit.val % 2 = 1) := by
  rw [controlVal, BitVec.getLsbD, Nat.testBit_eq_decide_div_mod_eq]

/-- `sel` is the three bits from weight `2 ^ CW_SEL_LSB` (R107). -/
theorem controlSel_val (cfg : Params) (v : Byte) :
    (controlSel cfg v).val = v.toNat / 2 ^ cfg.cwSelLsb.val % 8 := by
  rw [controlSel, BitVec.val_toFin, BitVec.extractLsb'_toNat, Nat.shiftRight_eq_div_pow]

/-- The flags a control word can select sit at different positions (R110). -/
theorem hsPos_selectable_ne {cfg : Params} (h : cfg.Wf) :
    cfg.hsPos.d2hTxEn ≠ cfg.hsPos.h2dRxEn ∧ cfg.hsPos.extra ≠ cfg.hsPos.h2dRxEn ∧
      cfg.hsPos.extra ≠ cfg.hsPos.d2hTxEn := by
  have hnodup := h.hsPos_nodup
  simp only [HsPos.toList, List.nodup_cons, List.mem_cons, not_or] at hnodup
  tauto

/-- The device's control word completes in the write of the flag selected, or in a diagnostic (R276, R108). -/
theorem exec_intHsCtrlWr (v : Byte) (s : State) :
    exec (.intHsCtrlWr v) s = .next (settled (
      if controlSel s.cfg v = s.cfg.hsPos.h2dRxEn then
        s.setChan .h2d { s.h2d with rxEn := controlVal s.cfg v }
      else if controlSel s.cfg v = s.cfg.hsPos.d2hTxEn then
        s.setChan .d2h { s.d2h with txEn := controlVal s.cfg v }
      else if controlSel s.cfg v = s.cfg.hsPos.extra then { s with extra := controlVal s.cfg v }
      else s.log (.unselectedControlBit v))) := by
  show execIntHsCtrlWr v s = _
  unfold execIntHsCtrlWr
  dsimp only
  split_ifs
  · exact complete_setRx s .h2d _
  · exact complete_setTx s .d2h _
  · exact complete_eq _
  · exact complete_eq _

/-- The host's control word completes in the write of the other channel's enable, or in a diagnostic (R322, R109). -/
theorem exec_hCtrlWr (v : Byte) (s : State) :
    exec (.hCtrlWr v) s = .next (settled (
      if controlSel s.cfg v = s.cfg.hsPos.h2dRxEn then
        s.setChan .d2h { s.d2h with rxEn := controlVal s.cfg v }
      else if controlSel s.cfg v = s.cfg.hsPos.d2hTxEn then
        s.setChan .h2d { s.h2d with txEn := controlVal s.cfg v }
      else s.log (.unselectedControlBit v))) := by
  show execHCtrlWr v s = _
  unfold execHCtrlWr
  dsimp only
  split_ifs
  · exact complete_setRx s .d2h _
  · exact complete_setTx s .h2d _
  · exact complete_eq _

/-- Settles O18: the positions differ, so a select that names a flag passes the branches before that flag's. -/
theorem deviceControlWordWritesSelectedFlag : Obligations.DeviceControlWordWritesSelectedFlag := by
  intro s v hwf
  obtain ⟨htx, hextraRx, hextraTx⟩ := hsPos_selectable_ne hwf
  simp only [CompletesAs, exec_intHsCtrlWr, ← controlVal_eq, ← controlSel_val, ne_eq, Fin.val_inj]
  refine ⟨fun h => ?_, fun h => ?_, fun h => ?_, fun hrx htx hextra => ?_⟩
  · rw [if_pos h]; rfl
  · rw [h, if_neg htx, if_pos rfl]; rfl
  · rw [h, if_neg hextraRx, if_neg hextraTx, if_pos rfl]
  · rw [if_neg hrx, if_neg htx, if_neg hextra]; rfl

/-- Settles O19, as O18; the extra-flag's position has no branch of its own. -/
theorem hostControlWordWritesSelectedFlag : Obligations.HostControlWordWritesSelectedFlag := by
  intro s v hwf
  obtain ⟨htx, -, -⟩ := hsPos_selectable_ne hwf
  simp only [CompletesAs, exec_hCtrlWr, ← controlVal_eq, ← controlSel_val, ne_eq, Fin.val_inj]
  refine ⟨fun h => ?_, fun h => ?_, fun hrx htx => ?_⟩
  · rw [if_pos h]; rfl
  · rw [h, if_neg htx, if_pos rfl]; rfl
  · rw [if_neg hrx, if_neg htx]; rfl

end Sys2Proof.Machine

/-! PROOF. R110, R111, R114: the handshake status byte, one lemma for both views, and TSR. -/

namespace Sys2Proof.Machine

@[simp] theorem hsFreeByte_getLsbD (cfg : Params) (k : Fin 8) : (hsFreeByte cfg).getLsbD k = cfg.hsFree := by
  unfold hsFreeByte
  cases cfg.hsFree <;> revert k <;> decide

/-- The handshake status byte of either view, `r` the channel received from and `t` the one sent into: `placeBits` of
the seven fields at positions that differ. -/
theorem handshakeStatus_fields {cfg : Params} (hwf : cfg.Wf) (extra : Bool) (r t : Channel) :
    (handshakeStatus cfg extra r t).getLsbD cfg.hsPos.extra = extra ∧
    (handshakeStatus cfg extra r t).getLsbD cfg.hsPos.h2dReady = r.ready ∧
    (handshakeStatus cfg extra r t).getLsbD cfg.hsPos.h2dRxInt = r.rxCond ∧
    (handshakeStatus cfg extra r t).getLsbD cfg.hsPos.d2hNReady = !t.ready ∧
    (handshakeStatus cfg extra r t).getLsbD cfg.hsPos.d2hTxInt = t.txCond ∧
    (handshakeStatus cfg extra r t).getLsbD cfg.hsPos.h2dRxEn = r.rxEn ∧
    (handshakeStatus cfg extra r t).getLsbD cfg.hsPos.d2hTxEn = t.txEn ∧
    ∀ k : Fin 8, k ∉ cfg.hsPos.toList → (handshakeStatus cfg extra r t).getLsbD k = cfg.hsFree := by
  unfold handshakeStatus
  refine ⟨?_, ?_, ?_, ?_, ?_, ?_, ?_, fun k hk => ?_⟩
  case refine_8 =>
    rw [placeBits_getLsbD_of_not_mem, hsFreeByte_getLsbD]
    exact hk
  all_goals exact placeBits_getLsbD_of_mem _ _ _ _ hwf.hsPos_nodup (by simp)

/-- Settles O24, by `handshakeStatus_fields` with the device receiving on H2D. -/
theorem deviceStatusByteFields : Obligations.DeviceStatusByteFields := fun s hwf =>
  ⟨s.deviceStatus, complete_eq _, handshakeStatus_fields hwf s.extra s.h2d s.d2h⟩

/-- Settles O25, by `handshakeStatus_fields` with the host receiving on D2H. -/
theorem hostStatusByteFields : Obligations.HostStatusByteFields := fun s hwf =>
  ⟨s.hostStatus, complete_eq _, handshakeStatus_fields hwf s.extra s.d2h s.h2d⟩

/-- TSR is a function of three flags (R114). -/
theorem State.tsr_fields (s : State) :
    s.tsr.getLsbD 7 = s.hsHost ∧ s.tsr.extractLsb' 2 5 = 0b11111#5 ∧ s.tsr.getLsbD 1 = s.pending.b ∧
      s.tsr.getLsbD 0 = s.pending.a := by
  rw [State.tsr]
  generalize s.hsHost = hs, s.pending.b = b, s.pending.a = a
  revert hs b a
  decide

/-- Settles O27: the read returns TSR and clears nothing. -/
theorem tsrByteFields : Obligations.TsrByteFields := fun s _ => ⟨s.tsr, complete_eq _, s.tsr_fields⟩

end Sys2Proof.Machine

/-! PROOF. R278, R279: internal group 3 under each value of `G3_MAP`. -/

namespace Sys2Proof.Machine

/-- The sub-addresses of group 3 are the ports from 48. -/
theorem groupThreePort_eq_ofNat : ∀ sub : BitVec 4, 3#2 ++ sub = BitVec.ofNat 6 (48 + sub.toNat) := by
  decide

/-- The timer port of a sub-address is `S & 3`. -/
theorem groupThreeTimerPort_eq_ofNat : ∀ sub : BitVec 4, sub.extractLsb' 0 2 = BitVec.ofNat 2 (sub.toNat % 4) := by
  decide

theorem exec_intG3Rd_of_unmapped (sub : BitVec 4) {s : State} (h : s.cfg.g3Map = .unmapped) :
    exec (.intG3Rd sub) s = unmappedInternalRead (3#2 ++ sub) s := by
  show execIntG3Rd sub s = _
  rw [execIntG3Rd, h]
  rfl

theorem exec_intG3Wr_of_unmapped (sub : BitVec 4) (v : Byte) {s : State} (h : s.cfg.g3Map = .unmapped) :
    exec (.intG3Wr sub v) s = unmappedInternalWrite (3#2 ++ sub) v s := by
  show execIntG3Wr sub v s = _
  rw [execIntG3Wr, h]
  rfl

theorem exec_intG3Rd_of_timerPorts (sub : BitVec 4) {s : State} (h : s.cfg.g3Map = .timerPorts) :
    exec (.intG3Rd sub) s = .next (settled (s.returnInternal 0x00#8)) := by
  show execIntG3Rd sub s = _
  rw [execIntG3Rd, h]
  exact complete_eq _

/-- Under `TimerPorts` a write is the host's write of the timer port (R279). -/
theorem exec_intG3Wr_of_timerPorts (sub : BitVec 4) (v : Byte) {s : State} (h : s.cfg.g3Map = .timerPorts) :
    exec (.intG3Wr sub v) s = exec (.hTimerWr (sub.extractLsb' 0 2) v) s := by
  show execIntG3Wr sub v s = _
  rw [execIntG3Wr, h]
  rfl

/-- Settles O41: unmapped, the two are the shared unmapped read and write; mapped, the write completes because every
timer write does. -/
theorem groupThreeFollowsMap : Obligations.GroupThreeFollowsMap := by
  intro s sub v
  rw [← groupThreePort_eq_ofNat, ← groupThreeTimerPort_eq_ofNat]
  refine ⟨fun h => ⟨?_, ?_⟩, fun h => ⟨exec_intG3Rd_of_timerPorts sub h, ?_, exec_intG3Wr_of_timerPorts sub v h⟩⟩
  · exact (exec_intG3Rd_of_unmapped sub h).trans (unmappedInternalRead_eq _ s)
  · exact (exec_intG3Wr_of_unmapped sub v h).trans (unmappedInternalWrite_eq _ v s)
  · exact ⟨_, (exec_intG3Wr_of_timerPorts sub v h).trans (exec_hTimerWr ..)⟩

end Sys2Proof.Machine

/-! PROOF. R326: the host bus reaches neither the chip nor the queue. The frame is said once, as the part of the state
no host transaction writes (`State.deviceSide`). -/

namespace Sys2Proof.Machine

/-- The state without what the host bus can reach: of H2D all but the device's enable, of D2H the ready flag and the
host's enable, TCR and the pending bits, the timers, the delivery of the host interrupt, and the outputs to the host,
the scheduler and the log. -/
def State.deviceSide (s : State) : State :=
  { s with
    h2d := { value := 0, ready := false, rxEn := s.h2d.rxEn, txEn := false }
    d2h := { s.d2h with ready := false, rxEn := false }
    tcr := 0, pending := { a := false, b := false }, hostIrqLevel := false
    chA := .reset, chB1 := .reset, chB2 := .reset, armedA := none, armedB := none
    out := { s.out with hostReads := [], irqEdges := [], schedCalls := [], diags := [] } }

@[simp] theorem settled_deviceSide (u : State) : (settled u).deviceSide = u.deviceSide := rfl

theorem complete_deviceSide {s u t : State} (h : complete u = .next t) (hu : u.deviceSide = s.deviceSide) :
    t.deviceSide = s.deviceSide := by
  rw [complete_eq_next.mp h, settled_deviceSide, hu]

@[simp] theorem State.recomputeHostIrq_deviceSide (s : State) : s.recomputeHostIrq.deviceSide = s.deviceSide := by
  rw [State.recomputeHostIrq_eq_settled, settled_deviceSide]

theorem State.timerWrite_deviceSide (s : State) (p : BitVec 2) (v : Byte) :
    (s.timerWrite p v).deviceSide = s.deviceSide :=
  (congrArg State.deviceSide (s.timerWrite_offTimers p v) :)

/-- Every host transaction keeps the device's side. The default case is that of the reads without effect and the
unmapped ports. -/
theorem exec_host_deviceSide {i : Instr} {s t : State} (hi : i.format = .host) (h : exec i s = .next t) :
    t.deviceSide = s.deviceSide := by
  cases i with
  | hGetD2h =>
    exact complete_deviceSide h (s.setChan .d2h { s.d2h with ready := false }).recomputeHostIrq_deviceSide
  | hPutH2d v => exact complete_deviceSide h (State.recomputeHostIrq_deviceSide _)
  | hCtrlWr v =>
    refine complete_deviceSide h ?_
    split_ifs
    · exact State.recomputeHostIrq_deviceSide _
    · exact State.recomputeHostIrq_deviceSide _
    · rfl
  | hTimerWr p v => exact complete_deviceSide h (s.timerWrite_deviceSide p v)
  | hTcrWr ss v => exact complete_deviceSide h (State.recomputeHostIrq_deviceSide _)
  | hPeekH2d | hStatusRd | hRd3 | hTimerRd _ | hRdTcrSpace _ | hTsrRd _ | hWr02 _ _ | hWrTsrSpace _ _ =>
    exact complete_deviceSide h rfl
  | _ => cases hi

/-- Settles O58: the device's side holds all these fields. -/
theorem hostReachesNeitherChipNorQueue : Obligations.HostReachesNeitherChipNorQueue := by
  intro i s t hi h
  have hside := exec_host_deviceSide hi h
  simp only [State.deviceSide, State.mk.injEq, Channel.mk.injEq, Outputs.mk.injEq] at hside
  simp [hside]

end Sys2Proof.Machine

/-! PROOF. R400, R401: the reset values. -/

namespace Sys2Proof.Machine

/-- At the reset values the host's condition and the line are both low, so construction delivers no edge (R400). -/
theorem settled_construct (s : State) : settled s.construct = s.construct :=
  settled_eq_self rfl

/-- Settles O53: `State.construct` is the reset state but for what is the model's own. -/
theorem constructionSetsResetValues : Obligations.ConstructionSetsResetValues := by
  intro s hp
  have hexec : exec .evReset s = .next s.construct :=
    (execEvReset_of_unbuilt hp).trans (congrArg _ (settled_construct s))
  exact ⟨s.construct, hexec, rfl, rfl, rfl, rfl, rfl, rfl, rfl, rfl, rfl, rfl, rfl, rfl, rfl, rfl, rfl, rfl, rfl, rfl,
    rfl⟩

end Sys2Proof.Machine
